-- ==== Sys2Proof/Word.lean ====
section
/-! DEFINITION. The word type of the Frame Codec: every register, field and access of spec/ is one byte
(00_scope.md R8, 20_memory.md R55), and bit 0 is the least significant. -/

namespace Sys2Proof

/-- 8 bits, an unsigned value 0 to 255 (00_scope.md R8). -/
abbrev Byte := BitVec 8

end Sys2Proof
end

