-- ==== Sys2Proof/Config.lean ====
section
/-! DEFINITION. The constants of the block in one configuration record, as 00_scope.md R6 asks; the register
offsets of 10_state.md R33; the operation codes of 30_encoding.md R76; and the one value the model fixes itself. -/

namespace Sys2Proof

/-- The hardwired constants of the table of 00_scope.md R6. None is host-writable (D30). -/
structure Config where
  /-- MAGIC: first byte of every request and of every accepted response. -/
  magic : Byte
  /-- REQ_LEN: bytes of a request frame. -/
  reqLen : Nat
  /-- RSP_MIN: bytes of the shortest well-formed response. -/
  rspMin : Nat
  /-- RX_CAP: most bytes of a response that are ever taken. -/
  rxCap : Nat
  /-- KIND_INDEX: index of the response-kind byte. -/
  kindIndex : Nat
  /-- DATA_INDEX: index of the status bitmask or of the device error code. -/
  dataIndex : Nat
  /-- STATUS_MIN_LEN: least length at which the byte at DATA_INDEX exists. -/
  statusMinLen : Nat
  /-- ERR_SENTINEL: device error code of an Err response with no byte at DATA_INDEX. -/
  errSentinel : Byte
  pingCode : Byte
  getStatusCode : Byte
  setRelayCode : Byte
  toggleRelayCode : Byte
  setAllCode : Byte
  okCode : Byte
  errCode : Byte
  statusCode : Byte
  pongCode : Byte
  deriving DecidableEq, Repr

/-- The values of 00_scope.md R6, 30_encoding.md R72 (command codes) and R74 (kind codes). -/
abbrev config : Config where
  magic := 0xA5#8
  reqLen := 4
  rspMin := 2
  rxCap := 64
  kindIndex := 1
  dataIndex := 3
  statusMinLen := 4
  errSentinel := 0xFF#8
  pingCode := 0x01#8
  getStatusCode := 0x02#8
  setRelayCode := 0x03#8
  toggleRelayCode := 0x04#8
  setAllCode := 0x05#8
  okCode := 0x00#8
  errCode := 0x01#8
  statusCode := 0x02#8
  pongCode := 0x03#8

/-! Register offsets of the host register space (10_state.md R33). -/

abbrev offOp : Byte := 0x00#8
abbrev offCmd : Byte := 0x01#8
abbrev offArg1 : Byte := 0x02#8
abbrev offArg2 : Byte := 0x03#8
abbrev offRxdata : Byte := 0x04#8
abbrev offRxlen : Byte := 0x05#8
abbrev offStatus : Byte := 0x06#8
abbrev offResult : Byte := 0x07#8
abbrev offKindbyte : Byte := 0x08#8
abbrev offData : Byte := 0x09#8
abbrev offTx0 : Byte := 0x0C#8
abbrev offTx1 : Byte := 0x0D#8
abbrev offTx2 : Byte := 0x0E#8
abbrev offTx3 : Byte := 0x0F#8

/-! Data bytes of a write to OP (30_encoding.md R76). -/

abbrev opEnc : Byte := 0x01#8
abbrev opVenv : Byte := 0x02#8
abbrev opPkind : Byte := 0x03#8
abbrev opDec : Byte := 0x04#8
abbrev opClr : Byte := 0x05#8

/-- What a byte of RXBUF that nothing has written reads as. DESIGN CHOICE, unsafe: the spec leaves RXBUF unspecified
at reset and allows a model to initialise it to zero (10_state.md R39, 93_implementation_defined.md U14).
See notes/assumptions/1.md. -/
abbrev rxBlank : Byte := 0x00#8

end Sys2Proof
end

