-- ==== Sys2Proof/Syntax.lean ====
section
/-! DEFINITION. The abstract types of 00_scope.md R11, the access formats of 30_encoding.md R70, and the
instructions: one constructor for each row of spec/opcode_table.json. -/

namespace Sys2Proof

/-- The five commands (00_scope.md R11, 30_encoding.md R72). -/
inductive Command where
  | ping | getStatus | setRelay | toggleRelay | setAll
  deriving DecidableEq, Repr

/-- The four response kinds (00_scope.md R11, 30_encoding.md R74). -/
inductive ResponseKind where
  | ok | err | status | pong
  deriving DecidableEq, Repr

/-- The result of the full decode of one response against one command (00_scope.md R11). The transport error is
no value of it: the block cannot raise one (60_exceptions.md R195). -/
inductive DecodeOutcome where
  | success
  | statusValue (mask : Byte)
  | envelopeError
  | decodeError (raw : Byte)
  | shapeError
  | deviceError (code : Byte)
  deriving DecidableEq, Repr

/-- The four encoded forms of 30_encoding.md R70. HW16 and HRD are host accesses, REQ and RSP are wire frames. -/
inductive Format where
  | hw16 | hrd | req | rsp
  deriving DecidableEq, Repr

/-- Who issues an access. The block serves one host; a second one on the same instance is outside the spec
(20_memory.md R61). -/
inductive Issuer where
  | theHost | secondHost
  deriving DecidableEq, Repr

/-- One access as it reaches the block: who issues it, its form, and its bytes in wire or bus order. An HW16 access
is its offset byte and then its data byte (30_encoding.md R75), an HRD access its offset byte (R77), a frame its
bytes from index 0 (20_memory.md R51). -/
structure Access where
  issuer : Issuer
  format : Format
  bytes : List Byte
  deriving DecidableEq, Repr

/-- The instructions: the 11 HW16 rows, the HRD row, the 5 REQ rows and the 6 RSP rows of the opcode table
(30_encoding.md R84). -/
inductive Instr where
  /-- ENC (40_encode.md R107) -/
  | enc
  /-- VENV (41_receive_validate.md R122) -/
  | venv
  /-- PKIND (42_kind_parse.md R137) -/
  | pkind
  /-- DEC (43_interpret.md R158) -/
  | dec
  /-- CLR (44_control.md R180) -/
  | clr
  /-- OPRSV (44_control.md R181): `d` is the reserved data byte written to OP -/
  | oprsv (d : Byte)
  /-- SETCMD (40_encode.md R104) -/
  | setcmd (v : Byte)
  /-- SETA1 (40_encode.md R105) -/
  | seta1 (v : Byte)
  /-- SETA2 (40_encode.md R106) -/
  | seta2 (v : Byte)
  /-- RXB (41_receive_validate.md R120) -/
  | rxb (v : Byte)
  /-- WRIGN (44_control.md R183) -/
  | wrign (off v : Byte)
  /-- RD (44_control.md R182) -/
  | rd (off : Byte)
  /-- REQ.PING (40_encode.md R108) -/
  | reqPing (arg1 arg2 : Byte)
  /-- REQ.GETSTATUS (40_encode.md R109) -/
  | reqGetstatus (arg1 arg2 : Byte)
  /-- REQ.SETRELAY (40_encode.md R110) -/
  | reqSetrelay (arg1 arg2 : Byte)
  /-- REQ.TOGGLERELAY (40_encode.md R111) -/
  | reqTogglerelay (arg1 arg2 : Byte)
  /-- REQ.SETALL (40_encode.md R112) -/
  | reqSetall (arg1 arg2 : Byte)
  /-- RSP.OK (42_kind_parse.md R138): `payload` is the bytes from index 2 -/
  | rspOk (payload : List Byte)
  /-- RSP.ERR (42_kind_parse.md R139) -/
  | rspErr (payload : List Byte)
  /-- RSP.STATUS (42_kind_parse.md R140) -/
  | rspStatus (payload : List Byte)
  /-- RSP.PONG (42_kind_parse.md R141) -/
  | rspPong (payload : List Byte)
  /-- RSP.UNKNOWN (42_kind_parse.md R142): `kind` is the byte at index 1 -/
  | rspUnknown (kind : Byte) (payload : List Byte)
  /-- RSP.BADMAGIC (42_kind_parse.md R142): `frame` is the whole response -/
  | rspBadmagic (frame : List Byte)
  deriving DecidableEq, Repr

end Sys2Proof
end

