-- ==== Sys2Proof/Machine/State.lean ====
section
/-! DEFINITION. The state: the fourteen items of 10_state.md R20 (`Codec`), and the host's side of the interface,
which is the model's own. Reset, the faults and the refusals. -/

namespace Sys2Proof.Machine

/-- A byte store: cells of (index, byte), indices strictly rising, no cell equal to what an unlisted index reads as. -/
abbrev Memory := List Host.Cell

/-- TXBUF: the four registers TX0 to TX3 (10_state.md R23). -/
structure TxBuf where
  tx0 : Byte
  tx1 : Byte
  tx2 : Byte
  tx3 : Byte
  deriving DecidableEq, Repr

/-- The result group RG (10_state.md R36). -/
structure ResultGroup where
  /-- RESULT: the class code of the last outcome (R28) -/
  result : Byte
  /-- KINDBYTE: the byte the kind parser was given (R29) -/
  kindByte : Byte
  /-- DATA: status bitmask or device error code (R30) -/
  data : Byte
  /-- ENVOK: stage 1 passed (R31) -/
  envOk : Bool
  /-- KINDOK: stage 2 passed (R31) -/
  kindOk : Bool
  /-- DATAV: DATA holds a value of stage 3 (R31) -/
  dataV : Bool
  /-- FAIL: the last outcome is an error or a refusal (R31) -/
  fail : Bool
  deriving DecidableEq, Repr

/-- The whole state of one block (10_state.md R20). -/
structure Codec where
  /-- CMD (R21) -/
  cmd : Byte
  /-- ARG1 (R22) -/
  arg1 : Byte
  /-- ARG2 (R22) -/
  arg2 : Byte
  /-- TXBUF (R23) -/
  tx : TxBuf
  /-- TXV (R24) -/
  txv : Bool
  /-- RXBUF (R25), the bytes at and beyond RXLEN included (R27) -/
  rxBuf : Memory
  /-- RXLEN (R26) -/
  rxLen : BitVec 7
  /-- RESULT, KINDBYTE, DATA, ENVOK, KINDOK, DATAV, FAIL (R36) -/
  rg : ResultGroup
  deriving DecidableEq, Repr

/-- The block, and the host's side of the interface: the accesses it has still to issue, in its order
(70_reset_and_hazards.md R233, 20_memory.md R58), and the byte its last read returned (44_control.md R182).
The last two are the model's own fields (notes/assumptions/3.md and 4.md). -/
structure State where
  block : Codec
  pending : List Access
  lastRead : Option Byte
  deriving DecidableEq, Repr

/-- The machine stops with a fault: never. "The block therefore has no stuck state, no fault that stops it and no
undefined access" (44_control.md R184), so there is no constructor. -/
inductive Fault where
  deriving DecidableEq, Repr

/-- The model gives no step. Every one lies outside the host interface of 44_control.md R184 or at a state no run
reaches; each is safe, since a claim through it cannot be proved. -/
inductive Refusal where
  /-- exec's arm of an instruction that has no meaning yet; no arm is. Safe. -/
  | notModelled (mnemonic : String)
  /-- Raised by step at an access of a second host: "a model should refuse (give no meaning to) interleaved
  operations from two hosts" (20_memory.md R61). Safe. -/
  | secondHost
  /-- Raised by step at a host access wider than a byte (20_memory.md R55, 44_control.md R184). Safe. -/
  | wideAccess
  /-- Raised by step at bytes too few to be a host access. Safe. -/
  | truncatedAccess
  /-- Raised by step at a REQ access that is none of the five request frames: not an input the block has
  (30_encoding.md R79). Safe. -/
  | notARequestFrame
  /-- Raised by DEC and the RSP rows at TXV = 1 with CMD no command code, which invariant I1 of 10_state.md R35 rules
  out: the command that DEC binds does not exist (43_interpret.md R158). Safe. -/
  | noCommand
  deriving DecidableEq, Repr

/-- The result group with every item zero: what `clear_rg()` leaves (10_state.md R36). -/
def ResultGroup.zero : ResultGroup where
  result := 0x00#8
  kindByte := 0x00#8
  data := 0x00#8
  envOk := false
  kindOk := false
  dataV := false
  fail := false

/-- TXBUF with every register 0x00 (10_state.md R23, R39). -/
def TxBuf.zero : TxBuf := ⟨0x00#8, 0x00#8, 0x00#8, 0x00#8⟩

/-- The block after reset (10_state.md R39, 70_reset_and_hazards.md R220). RXBUF is unspecified there; nothing is
listed, so it reads as rxBlank (notes/assumptions/1.md). -/
def Codec.reset : Codec where
  cmd := 0x00#8
  arg1 := 0x00#8
  arg2 := 0x00#8
  tx := TxBuf.zero
  txv := false
  rxBuf := []
  rxLen := 0#7
  rg := ResultGroup.zero

/-- The machine after reset: the block at its reset values, waiting for the first host operation
(70_reset_and_hazards.md R220). -/
def State.reset : State where
  block := Codec.reset
  pending := []
  lastRead := none

end Sys2Proof.Machine
end

