-- ==== Sys2Proof/Machine/Memory.lean ====
section
/-! DEFINITION. The byte store that holds RXBUF: reading and writing one byte, and its canonical form. -/

namespace Sys2Proof.Machine

/-- The byte at an index; an unlisted index reads as rxBlank. -/
def readByte : Memory → Nat → Byte
  | [], _ => rxBlank
  | (k, x) :: m, a => if k = a then x else readByte m a

/-- The store without its cell at an index. -/
def eraseByte : Memory → Nat → Memory
  | [], _ => []
  | (k, x) :: m, a => if k = a then eraseByte m a else (k, x) :: eraseByte m a

/-- A cell put before the first cell of a greater index. -/
def insertByte : Memory → Nat → Byte → Memory
  | [], a, v => [(a, v)]
  | (k, x) :: m, a, v => if a < k then (a, v) :: (k, x) :: m else (k, x) :: insertByte m a v

/-- Write one byte. Writing what an unlisted index reads as lists nothing, so equal stores are equal data. -/
def writeByte (m : Memory) (a : Nat) (v : Byte) : Memory :=
  if v = rxBlank then eraseByte m a else insertByte (eraseByte m a) a v

/-- The canonical form: indices strictly rising, and no cell that reads as an unlisted one would. -/
abbrev Memory.wf (m : Memory) : Prop :=
  m.Pairwise (fun c d => c.1 < d.1) ∧ ∀ c ∈ m, c.2 ≠ rxBlank

end Sys2Proof.Machine
end

