-- ==== Sys2Proof/Machine/Operands.lean ====
section
/-! DEFINITION. The pure functions of the four units (layer W of 00_scope.md R2), over bytes and byte sequences,
with no register in them; and the guarded view of the receive buffer they are applied to. -/

namespace Sys2Proof.Machine

/-! ## The command encoder (40_encode.md) -/

/-- `cmd_code` (40_encode.md R100). -/
def cmdCode : Command → Byte
  | .ping => config.pingCode
  | .getStatus => config.getStatusCode
  | .setRelay => config.setRelayCode
  | .toggleRelay => config.toggleRelayCode
  | .setAll => config.setAllCode

/-- `parse_cmd` (40_encode.md R101). -/
def parseCmd (b : Byte) : Option Command :=
  if b = config.pingCode then some .ping
  else if b = config.getStatusCode then some .getStatus
  else if b = config.setRelayCode then some .setRelay
  else if b = config.toggleRelayCode then some .toggleRelay
  else if b = config.setAllCode then some .setAll
  else none

/-- `encode_request` (40_encode.md R103). No argument is checked (R113). -/
def encodeRequest (c : Command) (a1 a2 : Byte) : TxBuf := ⟨config.magic, cmdCode c, a1, a2⟩

/-- The frame as the sequence that goes on the wire, TX0 first (20_memory.md R51). -/
def TxBuf.bytes (f : TxBuf) : List Byte := [f.tx0, f.tx1, f.tx2, f.tx3]

/-! ## The magic-byte validator (41_receive_validate.md) -/

/-- The verdict of stage 1. -/
inductive EnvelopeVerdict where
  | ok | invalidMagic
  deriving DecidableEq, Repr

/-- `validate_envelope` (41_receive_validate.md R121). -/
def validateEnvelope (s : List Byte) : EnvelopeVerdict :=
  match s[0]? with
  | none => .invalidMagic
  | some m => if m = config.magic then .ok else .invalidMagic

/-! ## The response-kind parser (42_kind_parse.md) -/

/-- The result of stage 2: a kind, or the byte that is none. -/
inductive KindParse where
  | kind (k : ResponseKind)
  | unknown (b : Byte)
  deriving DecidableEq, Repr

/-- `kind_code` (42_kind_parse.md R135). -/
def kindCode : ResponseKind → Byte
  | .ok => config.okCode
  | .err => config.errCode
  | .status => config.statusCode
  | .pong => config.pongCode

/-- `parse_kind` (42_kind_parse.md R136): total, and no byte is mapped to a default kind. -/
def parseKind (b : Byte) : KindParse :=
  if b = config.okCode then .kind .ok
  else if b = config.errCode then .kind .err
  else if b = config.statusCode then .kind .status
  else if b = config.pongCode then .kind .pong
  else .unknown b

/-! ## The payload length validator and the interpretation (43_interpret.md) -/

/-- `min_len` (43_interpret.md R150). -/
def minLen : Command → ResponseKind → Nat
  | .getStatus, .status => config.statusMinLen
  | _, _ => config.rspMin

/-- `len_ok` (43_interpret.md R150). -/
def lenOk (c : Command) (k : ResponseKind) (n : Nat) : Bool := decide (minLen c k ≤ n)

/-- `byte3`: the guarded read of the data byte (43_interpret.md R151). -/
def byte3 (s : List Byte) : Option Byte := s[config.dataIndex]?

/-- `err_code`: the device error code, or the sentinel where the byte is absent (43_interpret.md R151). -/
def errCode (s : List Byte) : Byte := (byte3 s).getD config.errSentinel

/-- Stage 3 under GetStatus with kind Status: the length validator decides, and only then index 3 is read
(43_interpret.md R150, R154). -/
def statusAnswer (s : List Byte) : DecodeOutcome :=
  if lenOk .getStatus .status s.length then
    match byte3 s with
    | some m => .statusValue m
    | none => .shapeError
  else .shapeError

/-- `stage3` (43_interpret.md R152 to R157). SetAll does not special-case Err (R160, 90_conflicts.md C4). -/
def stage3 (c : Command) (k : ResponseKind) (s : List Byte) : DecodeOutcome :=
  match c, k with
  | .ping, .pong => .success
  | .ping, .ok | .ping, .err | .ping, .status => .shapeError
  | .getStatus, .status => statusAnswer s
  | .getStatus, .ok | .getStatus, .err | .getStatus, .pong => .shapeError
  | .setRelay, .ok => .success
  | .setRelay, .err => .deviceError (errCode s)
  | .setRelay, .status | .setRelay, .pong => .shapeError
  | .toggleRelay, .ok => .success
  | .toggleRelay, .err => .deviceError (errCode s)
  | .toggleRelay, .status | .toggleRelay, .pong => .shapeError
  | .setAll, .ok => .success
  | .setAll, .err | .setAll, .status | .setAll, .pong => .shapeError

/-- `interpret`: the whole decode of a byte sequence against a command, stages in order (43_interpret.md R152). -/
def interpret (c : Command) (s : List Byte) : DecodeOutcome :=
  match validateEnvelope s with
  | .invalidMagic => .envelopeError
  | .ok =>
    match s[config.kindIndex]? with
    | none => .shapeError
    | some b =>
      match parseKind b with
      | .unknown raw => .decodeError raw
      | .kind k => stage3 c k s

/-- `relay_on(m, i)`: bit i of a bitmask is relay i's state (20_memory.md R52). -/
def relayOn (m : Byte) (i : Fin 8) : Bool := m.getLsbD i

/-! ## The received sequence -/

/-- `rx`: the bytes RXBUF[0] to RXBUF[RXLEN-1] and nothing beyond (41_receive_validate.md R124, 10_state.md R27).
DEDUCED for RXLEN above 64, which no run reaches (notes/assumptions/13.md). -/
def Codec.rx (b : Codec) : List Byte := (List.range b.rxLen.toNat).map (readByte b.rxBuf)

end Sys2Proof.Machine
end

