-- ==== Sys2Proof/Machine/Flags.lean ====
section
/-! DEFINITION. The codes of RESULT (10_state.md R28), and the STATUS byte that gathers the five flags (R31). -/

namespace Sys2Proof.Machine

/-- The outcomes of RESULT that are no errors (10_state.md R28). -/
inductive PassClass where
  | success | statusValue | envPass | kindPass
  deriving DecidableEq, Repr

/-- The errors and refusals of RESULT (60_exceptions.md R191 to R198). -/
inductive ErrorClass where
  | eEnvelope | eDecode | eShape | eDevice | rBadcmd | rNoreq | rBadop
  deriving DecidableEq, Repr

/-- RESULT = NONE: no outcome (10_state.md R28). -/
abbrev resultNone : Byte := 0x00#8

/-- The RESULT value of an outcome that is no error (10_state.md R28). -/
def passCode : PassClass → Byte
  | .success => 0x01#8
  | .statusValue => 0x02#8
  | .envPass => 0x03#8
  | .kindPass => 0x04#8

/-- The RESULT value of an error or refusal (10_state.md R28). -/
def errorCode : ErrorClass → Byte
  | .eEnvelope => 0x10#8
  | .eDecode => 0x11#8
  | .eShape => 0x12#8
  | .eDevice => 0x13#8
  | .rBadcmd => 0x20#8
  | .rNoreq => 0x21#8
  | .rBadop => 0x22#8

/-- One flag at its bit position. -/
def flagBit (f : Bool) (i : Nat) : Byte := if f then 1#8 <<< i else 0#8

/-- STATUS: TXV at bit 0, ENVOK 1, KINDOK 2, DATAV 3, FAIL 4, bits 7:5 zero (10_state.md R31, 44_control.md R182). -/
def statusByte (b : Codec) : Byte :=
  flagBit b.rg.fail 4 ||| flagBit b.rg.dataV 3 ||| flagBit b.rg.kindOk 2 ||| flagBit b.rg.envOk 1 ||| flagBit b.txv 0

end Sys2Proof.Machine
end

