-- ==== Sys2Proof/Machine/Ops.lean ====
section
/-! DEFINITION. The named operations over the block's registers, each the pseudocode of its rule; among them
recording an error, the one thing that stands for taking an exception on this hardware (60_exceptions.md R200).
No operation returns from one: there is none (R202). -/

namespace Sys2Proof.Machine

/-! ## The result group -/

/-- `clear_rg()` (10_state.md R36). -/
def clearRg (b : Codec) : Codec := { b with rg := ResultGroup.zero }

/-- `raise E`: RESULT takes the code and FAIL is set; everything else stays as the stages before left it, and the
operation ends (60_exceptions.md R200). -/
def raise (e : ErrorClass) (b : Codec) : Codec := { b with rg := { b.rg with result := errorCode e, fail := true } }

/-- The end of an operation that is no error: RESULT takes the code (10_state.md R28). -/
def pass (p : PassClass) (b : Codec) : Codec := { b with rg := { b.rg with result := passCode p } }

/-- ENVOK <- 1. -/
def setEnvOk (b : Codec) : Codec := { b with rg := { b.rg with envOk := true } }

/-- KINDBYTE <- v. -/
def setKindByte (v : Byte) (b : Codec) : Codec := { b with rg := { b.rg with kindByte := v } }

/-- KINDOK <- 1. -/
def setKindOk (b : Codec) : Codec := { b with rg := { b.rg with kindOk := true } }

/-- DATA <- v and DATAV <- 1. -/
def setData (v : Byte) (b : Codec) : Codec := { b with rg := { b.rg with data := v, dataV := true } }

/-! ## Operand writes and the encoder (40_encode.md) -/

/-- TXV <- 0 and TXBUF <- zeros (40_encode.md R104 to R107). -/
def dropFrame (b : Codec) : Codec := { b with txv := false, tx := TxBuf.zero }

/-- What every operand write does after its register is written (40_encode.md R104 to R106). -/
def afterOperandWrite (b : Codec) : Codec := clearRg (dropFrame b)

/-- SETCMD's effect (40_encode.md R104). -/
def writeCmd (v : Byte) (b : Codec) : Codec := afterOperandWrite { b with cmd := v }

/-- SETA1's effect (40_encode.md R105). -/
def writeArg1 (v : Byte) (b : Codec) : Codec := afterOperandWrite { b with arg1 := v }

/-- SETA2's effect (40_encode.md R106). -/
def writeArg2 (v : Byte) (b : Codec) : Codec := afterOperandWrite { b with arg2 := v }

/-- RXLEN <- 0: the receive sequence becomes empty, the bytes of RXBUF stay where they are (10_state.md R27). -/
def emptyRx (b : Codec) : Codec := { b with rxLen := 0#7 }

/-- ENC's effect (40_encode.md R107). -/
def encodeFrame (b : Codec) : Codec :=
  let b := clearRg (emptyRx b)
  match parseCmd b.cmd with
  | none => raise .rBadcmd (dropFrame b)
  | some c => { b with tx := encodeRequest c b.arg1 b.arg2, txv := true }

/-- The pseudo-instruction REQ c, a, b: SETCMD c ; SETA1 a ; SETA2 b ; ENC (30_encoding.md R82). -/
def requestSequence (c : Command) (a1 a2 : Byte) (b : Codec) : Codec :=
  encodeFrame (writeArg2 a2 (writeArg1 a1 (writeCmd (cmdCode c) b)))

/-! ## The receive buffer (41_receive_validate.md) -/

/-- RXB's effect: stored below RX_CAP, dropped without trace at it (41_receive_validate.md R120). -/
def pushByte (v : Byte) (b : Codec) : Codec :=
  if b.rxLen.toNat < config.rxCap then
    clearRg { b with rxBuf := writeByte b.rxBuf b.rxLen.toNat v, rxLen := b.rxLen + 1#7 }
  else b

/-- The pseudo-instruction RX: one RXB per byte, in order (30_encoding.md R82). -/
def pushBytes (frame : List Byte) (b : Codec) : Codec := frame.foldl (fun b v => pushByte v b) b

/-! ## The three stages -/

/-- Stage 1: the envelope, and then the rest (41_receive_validate.md R122, R123). -/
def stageEnvelope (b : Codec) (rest : Codec → Codec) : Codec :=
  match validateEnvelope b.rx with
  | .invalidMagic => raise .eEnvelope b
  | .ok => rest (setEnvOk b)

/-- Stage 2: the kind byte, and then the rest with the kind. A buffer too short to have a kind byte is a shape
error (42_kind_parse.md R137, R143). -/
def stageKind (b : Codec) (rest : ResponseKind → Codec → Codec) : Codec :=
  match b.rx[config.kindIndex]? with
  | none => raise .eShape b
  | some v =>
    match parseKind v with
    | .unknown _ => raise .eDecode (setKindByte v b)
    | .kind k => rest k (setKindOk (setKindByte v b))

/-- What an outcome of the decode writes at its end (43_interpret.md R158, R163). -/
def commitOutcome (o : DecodeOutcome) (b : Codec) : Codec :=
  match o with
  | .success => pass .success b
  | .statusValue m => pass .statusValue (setData m b)
  | .deviceError e => raise .eDevice (setData e b)
  | .shapeError => raise .eShape b
  | .envelopeError => raise .eEnvelope b
  | .decodeError _ => raise .eDecode b

/-- VENV's effect (41_receive_validate.md R122). -/
def validateOp (b : Codec) : Codec := stageEnvelope (clearRg b) (pass .envPass)

/-- PKIND's effect (42_kind_parse.md R137). -/
def parseKindOp (b : Codec) : Codec :=
  stageEnvelope (clearRg b) fun b => stageKind b fun _ b => pass .kindPass b

/-- DEC's effect (43_interpret.md R158). None where TXV = 1 and CMD is no command code: no run reaches such a state
(10_state.md R35 I1) and the rule gives it no effect (notes/assumptions/8.md). -/
def interpretOp (b : Codec) : Option Codec :=
  let b := clearRg b
  if b.txv then
    match parseCmd b.cmd with
    | none => none
    | some c => some (stageEnvelope b fun b => stageKind b fun k b => commitOutcome (stage3 c k b.rx) b)
  else some (raise .rNoreq b)

/-- A response delivered whole: RX and then DEC, steps 4 and 5 of the exchange (70_reset_and_hazards.md R223,
30_encoding.md R82). -/
def responseSequence (frame : List Byte) (b : Codec) : Option Codec := interpretOp (pushBytes frame b)

/-! ## Control (44_control.md) -/

/-- CLR's effect: RXBUF is not erased (44_control.md R180). -/
def clearAll (b : Codec) : Codec :=
  clearRg (emptyRx (dropFrame { b with cmd := 0x00#8, arg1 := 0x00#8, arg2 := 0x00#8 }))

/-- The effect of a reserved OP code (44_control.md R181). -/
def badOp (b : Codec) : Codec := raise .rBadop (clearRg b)

/-- `MemRead(off, 1)` (44_control.md R182, 10_state.md R33). -/
def hostRead (b : Codec) (off : Byte) : Byte :=
  if off = offCmd then b.cmd
  else if off = offArg1 then b.arg1
  else if off = offArg2 then b.arg2
  else if off = offRxlen then b.rxLen.setWidth 8
  else if off = offStatus then statusByte b
  else if off = offResult then b.rg.result
  else if off = offKindbyte then b.rg.kindByte
  else if off = offData then b.rg.data
  else if off = offTx0 then b.tx.tx0
  else if off = offTx1 then b.tx.tx1
  else if off = offTx2 then b.tx.tx2
  else if off = offTx3 then b.tx.tx3
  else 0x00#8

/-! ## On the whole state -/

/-- The state with another block. -/
def State.withBlock (s : State) (b : Codec) : State := { s with block := b }

/-- The outcome of an operation that always completes. -/
def completes (s : State) (f : Codec → Codec) : Host.Outcome State Fault Refusal := .next (s.withBlock (f s.block))

/-- The outcome of an operation that needs the command issued (43_interpret.md R158). -/
def completesIf (s : State) (f : Codec → Option Codec) : Host.Outcome State Fault Refusal :=
  match f s.block with
  | some b => .next (s.withBlock b)
  | none => .refused .noCommand

end Sys2Proof.Machine
end

