-- ==== Sys2Proof/Machine/Control.lean ====
section
/-! DEFINITION. The control operations: CLR, OPRSV, RD, WRIGN (44_control.md). -/

namespace Sys2Proof.Machine

/-- CLR (44_control.md R180). -/
def execClr (s : State) : Host.Outcome State Fault Refusal := completes s clearAll

/-- OPRSV (44_control.md R181): the value `_d` is not recorded. -/
def execOprsv (_d : Byte) (s : State) : Host.Outcome State Fault Refusal := completes s badOp

/-- RD off (44_control.md R182): the block does not change, and the host has the byte. -/
def execRd (off : Byte) (s : State) : Host.Outcome State Fault Refusal :=
  .next { s with lastRead := some (hostRead s.block off) }

/-- WRIGN (44_control.md R183): nothing changes. -/
def execWrign (_off _v : Byte) (s : State) : Host.Outcome State Fault Refusal := completes s id

end Sys2Proof.Machine
end

