-- ==== Sys2Proof/Machine/Decoder.lean ====
section
/-! DEFINITION. The receive side's host operations: RXB, VENV (41_receive_validate.md), PKIND (42_kind_parse.md),
DEC (43_interpret.md). -/

namespace Sys2Proof.Machine

/-- RXB v (41_receive_validate.md R120). -/
def execRxb (v : Byte) (s : State) : Host.Outcome State Fault Refusal := completes s (pushByte v)

/-- VENV (41_receive_validate.md R122). -/
def execVenv (s : State) : Host.Outcome State Fault Refusal := completes s validateOp

/-- PKIND (42_kind_parse.md R137). -/
def execPkind (s : State) : Host.Outcome State Fault Refusal := completes s parseKindOp

/-- DEC (43_interpret.md R158). -/
def execDec (s : State) : Host.Outcome State Fault Refusal := completesIf s interpretOp

end Sys2Proof.Machine
end

