-- ==== Sys2Proof/Machine/Encoder.lean ====
section
/-! DEFINITION. The command encoder's host operations: SETCMD, SETA1, SETA2, ENC (40_encode.md). -/

namespace Sys2Proof.Machine

/-- SETCMD v (40_encode.md R104). -/
def execSetcmd (v : Byte) (s : State) : Host.Outcome State Fault Refusal := completes s (writeCmd v)

/-- SETA1 v (40_encode.md R105). -/
def execSeta1 (v : Byte) (s : State) : Host.Outcome State Fault Refusal := completes s (writeArg1 v)

/-- SETA2 v (40_encode.md R106). -/
def execSeta2 (v : Byte) (s : State) : Host.Outcome State Fault Refusal := completes s (writeArg2 v)

/-- ENC (40_encode.md R107). -/
def execEnc (s : State) : Host.Outcome State Fault Refusal := completes s encodeFrame

end Sys2Proof.Machine
end

