-- ==== Sys2Proof/Machine/RequestFrames.lean ====
section
/-! DEFINITION. The five request frames as instructions: each is produced by the pseudo-instruction REQ of
30_encoding.md R82 with its command code (40_encode.md R108 to R112). DEDUCED, see notes/assumptions/5.md. -/

namespace Sys2Proof.Machine

/-- REQ.PING (40_encode.md R108). -/
def execReqPing (a1 a2 : Byte) (s : State) : Host.Outcome State Fault Refusal :=
  completes s (requestSequence .ping a1 a2)

/-- REQ.GETSTATUS (40_encode.md R109). -/
def execReqGetstatus (a1 a2 : Byte) (s : State) : Host.Outcome State Fault Refusal :=
  completes s (requestSequence .getStatus a1 a2)

/-- REQ.SETRELAY (40_encode.md R110). -/
def execReqSetrelay (a1 a2 : Byte) (s : State) : Host.Outcome State Fault Refusal :=
  completes s (requestSequence .setRelay a1 a2)

/-- REQ.TOGGLERELAY (40_encode.md R111). -/
def execReqTogglerelay (a1 a2 : Byte) (s : State) : Host.Outcome State Fault Refusal :=
  completes s (requestSequence .toggleRelay a1 a2)

/-- REQ.SETALL (40_encode.md R112). -/
def execReqSetall (a1 a2 : Byte) (s : State) : Host.Outcome State Fault Refusal :=
  completes s (requestSequence .setAll a1 a2)

end Sys2Proof.Machine
end

