-- ==== Sys2Proof/Machine/ResponseFrames.lean ====
section
/-! DEFINITION. The six response frames as instructions: the frame is pushed, one RXB per byte, and DEC runs
(70_reset_and_hazards.md R223 steps 4 and 5; 42_kind_parse.md R138 to R142). DEDUCED, see notes/assumptions/6.md. -/

namespace Sys2Proof.Machine

/-- RSP.OK (42_kind_parse.md R138). -/
def execRspOk (payload : List Byte) (s : State) : Host.Outcome State Fault Refusal :=
  completesIf s (responseSequence (config.magic :: kindCode .ok :: payload))

/-- RSP.ERR (42_kind_parse.md R139). -/
def execRspErr (payload : List Byte) (s : State) : Host.Outcome State Fault Refusal :=
  completesIf s (responseSequence (config.magic :: kindCode .err :: payload))

/-- RSP.STATUS (42_kind_parse.md R140). -/
def execRspStatus (payload : List Byte) (s : State) : Host.Outcome State Fault Refusal :=
  completesIf s (responseSequence (config.magic :: kindCode .status :: payload))

/-- RSP.PONG (42_kind_parse.md R141). -/
def execRspPong (payload : List Byte) (s : State) : Host.Outcome State Fault Refusal :=
  completesIf s (responseSequence (config.magic :: kindCode .pong :: payload))

/-- RSP.UNKNOWN (42_kind_parse.md R142). -/
def execRspUnknown (kind : Byte) (payload : List Byte) (s : State) : Host.Outcome State Fault Refusal :=
  completesIf s (responseSequence (config.magic :: kind :: payload))

/-- RSP.BADMAGIC (42_kind_parse.md R142). -/
def execRspBadmagic (frame : List Byte) (s : State) : Host.Outcome State Fault Refusal :=
  completesIf s (responseSequence frame)

/-- The response [0xA5], which no row of the table matches (42_kind_parse.md R143, 30_encoding.md R84). -/
def deliverShort (s : State) : Host.Outcome State Fault Refusal :=
  completesIf s (responseSequence [config.magic])

end Sys2Proof.Machine
end

