-- ==== Sys2Proof/Machine/Dispatch.lean ====
section
/-! DEFINITION. One arm per instruction. -/

namespace Sys2Proof.Machine

def exec (i : Instr) (s : State) : Host.Outcome State Fault Refusal :=
  match i with
  | .enc => Sys2Proof.Machine.execEnc s
  | .venv => Sys2Proof.Machine.execVenv s
  | .pkind => Sys2Proof.Machine.execPkind s
  | .dec => Sys2Proof.Machine.execDec s
  | .clr => Sys2Proof.Machine.execClr s
  | .oprsv d => Sys2Proof.Machine.execOprsv d s
  | .setcmd v => Sys2Proof.Machine.execSetcmd v s
  | .seta1 v => Sys2Proof.Machine.execSeta1 v s
  | .seta2 v => Sys2Proof.Machine.execSeta2 v s
  | .rxb v => Sys2Proof.Machine.execRxb v s
  | .wrign off v => Sys2Proof.Machine.execWrign off v s
  | .rd off => Sys2Proof.Machine.execRd off s
  | .reqPing a b => Sys2Proof.Machine.execReqPing a b s
  | .reqGetstatus a b => Sys2Proof.Machine.execReqGetstatus a b s
  | .reqSetrelay a b => Sys2Proof.Machine.execReqSetrelay a b s
  | .reqTogglerelay a b => Sys2Proof.Machine.execReqTogglerelay a b s
  | .reqSetall a b => Sys2Proof.Machine.execReqSetall a b s
  | .rspOk p => Sys2Proof.Machine.execRspOk p s
  | .rspErr p => Sys2Proof.Machine.execRspErr p s
  | .rspStatus p => Sys2Proof.Machine.execRspStatus p s
  | .rspPong p => Sys2Proof.Machine.execRspPong p s
  | .rspUnknown k p => Sys2Proof.Machine.execRspUnknown k p s
  | .rspBadmagic f => Sys2Proof.Machine.execRspBadmagic f s

end Sys2Proof.Machine
end

