-- ==== Sys2Proof/WellFormed.lean ====
section
/-! DEFINITION. Which terms of Instr are instructions of the opcode table. Rows are in priority order and the
first that matches is taken (30_encoding.md R84), so a catch-all row excludes the words of the rows before it. -/

namespace Sys2Proof

/-- A data byte of OP that no exact row takes: 0x00 and 0x06..0xFF (30_encoding.md R76). -/
def reservedOp (d : Byte) : Bool := d == 0x00#8 || BitVec.ult 0x05#8 d

/-- An offset whose write is ignored: 0x05..0xFF (30_encoding.md R75, 44_control.md R183). -/
def ignoredOffset (off : Byte) : Bool := BitVec.ult 0x04#8 off

/-- A byte that is no kind code: 0x04..0xFF (30_encoding.md R74, R79). -/
def unknownKindByte (k : Byte) : Bool := BitVec.ult 0x03#8 k

/-- A response with no first byte, or a first byte other than MAGIC (30_encoding.md R84). -/
def badEnvelope : List Byte → Bool
  | [] => true
  | m :: _ => m != config.magic

/-- The instruction is one of the opcode table's, with its operands in the ranges its row leaves it. Every operand
not named here is any byte, and a payload is any byte sequence (00_scope.md R5, 30_encoding.md R78). -/
def Instr.wf : Instr → Bool
  | .oprsv d => reservedOp d
  | .wrign off _ => ignoredOffset off
  | .rspUnknown k _ => unknownKindByte k
  | .rspBadmagic frame => badEnvelope frame
  | .enc | .venv | .pkind | .dec | .clr => true
  | .setcmd _ | .seta1 _ | .seta2 _ | .rxb _ | .rd _ => true
  | .reqPing _ _ | .reqGetstatus _ _ | .reqSetrelay _ _ | .reqTogglerelay _ _ | .reqSetall _ _ => true
  | .rspOk _ | .rspErr _ | .rspStatus _ | .rspPong _ => true

end Sys2Proof
end

