-- ==== Sys2Proof/Decode.lean ====
section
/-! DEFINITION. The decoder, total on any bytes in each of the four forms of 30_encoding.md R70 and rejecting by
name; after it the encoder, written from the same tables; and the reading of the opcode table's bare numbers. -/

namespace Sys2Proof

/-- Why bytes are no instruction of the opcode table. -/
inductive Reject where
  /-- An HW16 access with more than one data byte, or an HRD access of more than one offset: the spec gives no
  meaning to an access wider than a byte (20_memory.md R55, 44_control.md R184). -/
  | wideAccess
  /-- An HW16 access without its two bytes, or an HRD access without its offset: no access at all. -/
  | truncatedAccess
  /-- A REQ access whose bytes are not one of the five request frames: the block never parses a request frame, so
  this is no input it has (30_encoding.md R79). -/
  | notARequestFrame
  /-- The response [0xA5]: it matches no row (30_encoding.md R84). It still runs, as 42_kind_parse.md R143 says. -/
  | shortResponse
  deriving DecidableEq, Repr

/-- A write to OP: five exact data bytes, every other one reserved (30_encoding.md R76). -/
def decodeOp (d : Byte) : Instr :=
  if d = opEnc then .enc
  else if d = opVenv then .venv
  else if d = opPkind then .pkind
  else if d = opDec then .dec
  else if d = opClr then .clr
  else .oprsv d

/-- A one-byte host write (30_encoding.md R75). Total: every offset and every data byte (44_control.md R184). -/
def decodeWrite (off v : Byte) : Instr :=
  if off = offOp then decodeOp v
  else if off = offCmd then .setcmd v
  else if off = offArg1 then .seta1 v
  else if off = offArg2 then .seta2 v
  else if off = offRxdata then .rxb v
  else .wrign off v

/-- The request frames (30_encoding.md R71, R72). -/
def decodeRequest (m cmd a b : Byte) : Except Reject Instr :=
  if m = config.magic then
    if cmd = config.pingCode then .ok (.reqPing a b)
    else if cmd = config.getStatusCode then .ok (.reqGetstatus a b)
    else if cmd = config.setRelayCode then .ok (.reqSetrelay a b)
    else if cmd = config.toggleRelayCode then .ok (.reqTogglerelay a b)
    else if cmd = config.setAllCode then .ok (.reqSetall a b)
    else .error .notARequestFrame
  else .error .notARequestFrame

/-- The response frames, by the first two bytes; the rest is payload (30_encoding.md R73, R74, R84). -/
def decodeResponse : List Byte → Except Reject Instr
  | [] => .ok (.rspBadmagic [])
  | [m] => if m = config.magic then .error .shortResponse else .ok (.rspBadmagic [m])
  | m :: k :: payload =>
    if m = config.magic then
      if k = config.okCode then .ok (.rspOk payload)
      else if k = config.errCode then .ok (.rspErr payload)
      else if k = config.statusCode then .ok (.rspStatus payload)
      else if k = config.pongCode then .ok (.rspPong payload)
      else .ok (.rspUnknown k payload)
    else .ok (.rspBadmagic (m :: k :: payload))

/-- The decoder: the bytes of one access in one of the four forms. -/
def decode : Format → List Byte → Except Reject Instr
  | .hw16, [off, v] => .ok (decodeWrite off v)
  | .hw16, _ :: _ :: _ :: _ => .error .wideAccess
  | .hw16, _ => .error .truncatedAccess
  | .hrd, [off] => .ok (.rd off)
  | .hrd, [] => .error .truncatedAccess
  | .hrd, _ => .error .wideAccess
  | .req, [m, cmd, a, b] => decodeRequest m cmd a b
  | .req, _ => .error .notARequestFrame
  | .rsp, bytes => decodeResponse bytes

/-- The encoder: the form and the bytes of an instruction (30_encoding.md R71 to R77). -/
def encode : Instr → Format × List Byte
  | .enc => (.hw16, [offOp, opEnc])
  | .venv => (.hw16, [offOp, opVenv])
  | .pkind => (.hw16, [offOp, opPkind])
  | .dec => (.hw16, [offOp, opDec])
  | .clr => (.hw16, [offOp, opClr])
  | .oprsv d => (.hw16, [offOp, d])
  | .setcmd v => (.hw16, [offCmd, v])
  | .seta1 v => (.hw16, [offArg1, v])
  | .seta2 v => (.hw16, [offArg2, v])
  | .rxb v => (.hw16, [offRxdata, v])
  | .wrign off v => (.hw16, [off, v])
  | .rd off => (.hrd, [off])
  | .reqPing a b => (.req, [config.magic, config.pingCode, a, b])
  | .reqGetstatus a b => (.req, [config.magic, config.getStatusCode, a, b])
  | .reqSetrelay a b => (.req, [config.magic, config.setRelayCode, a, b])
  | .reqTogglerelay a b => (.req, [config.magic, config.toggleRelayCode, a, b])
  | .reqSetall a b => (.req, [config.magic, config.setAllCode, a, b])
  | .rspOk p => (.rsp, config.magic :: config.okCode :: p)
  | .rspErr p => (.rsp, config.magic :: config.errCode :: p)
  | .rspStatus p => (.rsp, config.magic :: config.statusCode :: p)
  | .rspPong p => (.rsp, config.magic :: config.pongCode :: p)
  | .rspUnknown k p => (.rsp, config.magic :: k :: p)
  | .rspBadmagic frame => (.rsp, frame)

/-- The access by which the host issues an instruction. -/
def Instr.access (i : Instr) : Access := ⟨.theHost, (encode i).1, (encode i).2⟩

/-- The lowest `8 * n` bits of a number as n bytes, the most significant first: the opcode table writes a frame as
one number whose most significant byte is first on the wire, and an HW16 word with its offset in the high byte
(30_encoding.md R75, R81). -/
def bytesOfNumber : Nat → Nat → List Byte
  | 0, _ => []
  | n + 1, w => BitVec.ofNat 8 (w / 256 ^ n) :: bytesOfNumber n w

/-- The access that a bare number of the opcode table stands for. 8 bits are an HRD word and 32 bits a REQ frame.
DESIGN CHOICE: HW16 and RSP share the 16-bit numbers, and a bare one is read as a response frame when its high byte
is MAGIC and as a host write otherwise (notes/assumptions/11.md). -/
def tableAccess (nbits w : Nat) : Access :=
  match nbits with
  | 8 => ⟨.theHost, .hrd, bytesOfNumber 1 w⟩
  | 16 => ⟨.theHost, if BitVec.ofNat 8 (w / 256) = config.magic then .rsp else .hw16, bytesOfNumber 2 w⟩
  | _ => ⟨.theHost, .req, bytesOfNumber (nbits / 8) w⟩

/-- The instruction the decoder reads from the table's number `w` of `nbits` bits. -/
def decodeTableWord (nbits w : Nat) : Option Instr :=
  match decode (tableAccess nbits w).format (tableAccess nbits w).bytes with
  | .ok i => some i
  | .error _ => none

end Sys2Proof
end

