-- ==== Sys2Proof/Machine/Fetch.lean ====
section
/-! DEFINITION. Where the next operation comes from. The block fetches nothing (10_state.md R34): the host issues
its accesses one at a time, in order (20_memory.md R58). DESIGN CHOICE, see notes/assumptions/3.md. -/

namespace Sys2Proof.Machine

/-- What the head of the host's sequence asks for. -/
inductive Fetched where
  /-- nothing is pending -/
  | idle
  /-- an instruction of the opcode table -/
  | run (i : Instr)
  /-- the one-byte response [0xA5] (42_kind_parse.md R143) -/
  | short
  /-- an access that the model gives no step (44_control.md R184) -/
  | stop (r : Refusal)
  deriving DecidableEq, Repr

/-- A decoder's rejection as the host's access meets it. -/
def ofReject : Reject → Fetched
  | .wideAccess => .stop .wideAccess
  | .truncatedAccess => .stop .truncatedAccess
  | .notARequestFrame => .stop .notARequestFrame
  | .shortResponse => .short

/-- One access: the host's is decoded, a second host's has no meaning (20_memory.md R61). -/
def takeAccess (a : Access) : Fetched :=
  match a.issuer with
  | .secondHost => .stop .secondHost
  | .theHost =>
    match decode a.format a.bytes with
    | .ok i => .run i
    | .error r => ofReject r

/-- What the next step is to do. -/
def fetch (s : State) : Fetched :=
  match s.pending with
  | [] => .idle
  | a :: _ => takeAccess a

/-- The state once the next access has been issued. -/
def issued (s : State) : State := { s with pending := s.pending.tail }

/-- The state with an access put before every pending one. -/
def placeFirst (a : Access) (s : State) : State := { s with pending := a :: s.pending }

end Sys2Proof.Machine
end

