-- ==== Sys2Proof/Machine/Step.lean ====
section
/-! DEFINITION. One step: the host's next access, whole (20_memory.md R58). -/

namespace Sys2Proof.Machine

/-- One step. With nothing pending the block waits and nothing changes (70_reset_and_hazards.md R220,
20_memory.md R58); otherwise the first access is issued and its operation runs to its end. -/
def step (s : State) : Host.Outcome State Fault Refusal :=
  match fetch s with
  | .idle => .next s
  | .run i => exec i (issued s)
  | .short => deliverShort (issued s)
  | .stop r => .refused r

/-- The state whose very next step runs the instruction of the table's number `w` of `nbits` bits: it is the first
access that the host issues. -/
def State.withFetchWord (s : State) (nbits w : Nat) : State := placeFirst (tableAccess nbits w) s

end Sys2Proof.Machine
end

