-- ==== Sys2Proof/Machine/Pseudo.lean ====
section
/-! DEFINITION. Programs as sequences of host operations (00_scope.md R12): running one, the pseudo-instructions of
30_encoding.md R82, and the sub-commands of the source's command line (R83). -/

namespace Sys2Proof.Machine

/-- The fold of the operation rules over a sequence (20_memory.md R58 (c)). -/
def execAll : List Instr → State → Host.Outcome State Fault Refusal
  | [], s => .next s
  | i :: is, s =>
    match exec i s with
    | .next t => execAll is t
    | .fault r => .fault r
    | .refused r => .refused r

/-- REQ c, a, b with the command byte as written (30_encoding.md R82). -/
def pseudoReq (c a b : Byte) : List Instr := [.setcmd c, .seta1 a, .seta2 b, .enc]

/-- RX with the bytes in order, nothing for none (30_encoding.md R82). -/
def pseudoRx (bytes : List Byte) : List Instr := bytes.map .rxb

/-- XCHG c, a, b, and the bytes of the response (30_encoding.md R82). -/
def pseudoXchg (c a b : Byte) (bytes : List Byte) : List Instr := pseudoReq c a b ++ pseudoRx bytes ++ [.dec]

/-- WR off, v: a raw write (30_encoding.md R82). -/
def pseudoWr (off v : Byte) : Instr := decodeWrite off v

/-- The sub-commands of the excluded command-line collaborator (30_encoding.md R83). -/
inductive SubCommand where
  | ping
  | status
  | set (relayId : Byte) (on : Bool)
  | toggle (relayId : Byte)
  | all (bitmask : Byte)
  deriving DecidableEq, Repr

/-- Each sub-command as REQ (30_encoding.md R83). -/
def subCommandReq : SubCommand → List Instr
  | .ping => pseudoReq config.pingCode 0#8 0#8
  | .status => pseudoReq config.getStatusCode 0#8 0#8
  | .set r on => pseudoReq config.setRelayCode r (if on then 1#8 else 0#8)
  | .toggle r => pseudoReq config.toggleRelayCode r 0#8
  | .all m => pseudoReq config.setAllCode m 0#8

end Sys2Proof.Machine
end

