-- ==== Sys2Proof/Machine/Report.lean ====
section
/-! DEFINITION. What the host reads off the registers: the source's message for an outcome (43_interpret.md R159),
and the state of an exchange (70_reset_and_hazards.md R223). Neither is stored (10_state.md R38). -/

namespace Sys2Proof.Machine

/-- The source's report of a failed exchange (43_interpret.md R159). -/
inductive Report where
  /-- a message with nothing beside it -/
  | message (text : String)
  /-- a message that carries the raw byte -/
  | messageWithByte (text : String) (raw : Byte)
  /-- a device error reporting its code -/
  | deviceCode (code : Byte)
  deriving DecidableEq, Repr

/-- The report as a function of RESULT and CMD, with KINDBYTE and DATA where the table names them; none where the
table has no row (43_interpret.md R159). DEDUCED: a PKIND's E_SHAPE is not told from a DEC's
(notes/assumptions/14.md). -/
def report (b : Codec) : Option Report :=
  if b.rg.result = errorCode .eEnvelope then some (.message "invalid magic byte")
  else if b.rg.result = errorCode .eDecode then some (.messageWithByte "unknown response type" b.rg.kindByte)
  else if b.rg.result = errorCode .eShape then
    match parseCmd b.cmd with
    | some .ping => some (.message "invalid ping response")
    | some .getStatus => some (.message "invalid status response")
    | some .setRelay | some .toggleRelay | some .setAll => some (.message "invalid response")
    | none => none
  else if b.rg.result = errorCode .eDevice then
    match parseCmd b.cmd with
    | some .setRelay | some .toggleRelay => some (.deviceCode b.rg.data)
    | some .ping | some .getStatus | some .setAll | none => none
  else none

/-- Idle: no request is encoded (70_reset_and_hazards.md R223). -/
def isIdle (b : Codec) : Bool := !b.txv

/-- Receiving: a request is encoded and no outcome is shown (70_reset_and_hazards.md R223). -/
def isReceiving (b : Codec) : Bool := b.txv && b.rg.result == resultNone

/-- Request built: as receiving, with nothing received yet (70_reset_and_hazards.md R223). -/
def isRequestBuilt (b : Codec) : Bool := isReceiving b && b.rxLen == 0#7

/-- Success: RESULT is 0x01 or 0x02 (70_reset_and_hazards.md R223). -/
def isSuccess (b : Codec) : Bool := b.rg.result == passCode .success || b.rg.result == passCode .statusValue

/-- Failed: FAIL = 1 (70_reset_and_hazards.md R223). -/
def isFailed (b : Codec) : Bool := b.rg.fail

end Sys2Proof.Machine
end

