-- ==== Sys2Proof/Safety.lean ====
section
/-! DEFINITION. The terms in which claims are made: what an operation leaves as it was, the invariants of
10_state.md R35, the result group each decode operation is to give (R28, R163), and what can be observed. -/

namespace Sys2Proof.Machine

/-! ## Frames -/

/-- The host's own side is as it was. -/
def HostSideKept (s t : State) : Prop := t.pending = s.pending ∧ t.lastRead = s.lastRead

/-- CMD, ARG1 and ARG2 are as they were. -/
def OperandsKept (b d : Codec) : Prop := d.cmd = b.cmd ∧ d.arg1 = b.arg1 ∧ d.arg2 = b.arg2

/-- TXV and TX0 to TX3 are as they were. -/
def FrameKept (b d : Codec) : Prop := d.txv = b.txv ∧ d.tx = b.tx

/-- Every byte of RXBUF reads as it did. -/
def RxBytesKept (b d : Codec) : Prop := ∀ i, readByte d.rxBuf i = readByte b.rxBuf i

/-- RXLEN and every byte of RXBUF are as they were. -/
def ReceiveKept (b d : Codec) : Prop := d.rxLen = b.rxLen ∧ RxBytesKept b d

/-- Nothing but the result group may have changed. -/
def OnlyResultGroup (s t : State) : Prop :=
  HostSideKept s t ∧ OperandsKept s.block t.block ∧ FrameKept s.block t.block ∧ ReceiveKept s.block t.block

/-! ## Invariants -/

/-- The invariants I1 to I10 of 10_state.md R35. -/
structure BlockInv (b : Codec) : Prop where
  /-- I1 -/
  frameMatches : b.txv = true →
    (0x01#8 ≤ b.cmd ∧ b.cmd ≤ 0x05#8) ∧ b.tx = ⟨0xA5#8, b.cmd, b.arg1, b.arg2⟩
  /-- I2 -/
  noFrame : b.txv = false → b.tx = ⟨0#8, 0#8, 0#8, 0#8⟩
  /-- I3 -/
  lengthBound : b.rxLen.toNat ≤ 64
  /-- I4 -/
  failIff : b.rg.fail = true ↔ 0x10#8 ≤ b.rg.result
  /-- I5, first half -/
  noneIsZero : b.rg.result = 0x00#8 → b.rg = ⟨0#8, 0#8, 0#8, false, false, false, false⟩
  /-- I5, converse half -/
  quietIsNone : b.rg.envOk = false → b.rg.fail = false → b.rg.result = 0x00#8
  /-- I6 -/
  kindParsed : b.rg.kindOk = true →
    b.rg.envOk = true ∧ b.rg.kindByte ≤ 0x03#8 ∧ 2 ≤ b.rxLen.toNat ∧ b.rg.kindByte = readByte b.rxBuf 1
  /-- I7 -/
  envelopeHeld : b.rg.envOk = true → 1 ≤ b.rxLen.toNat ∧ readByte b.rxBuf 0 = 0xA5#8
  /-- I8 -/
  dataIff : b.rg.dataV = true ↔ b.rg.result = 0x02#8 ∨ b.rg.result = 0x13#8
  /-- I9 -/
  needsRequest : (b.rg.result = 0x01#8 ∨ b.rg.result = 0x02#8 ∨ b.rg.result = 0x13#8 ∨
    (b.rg.result = 0x12#8 ∧ b.rg.kindOk = true)) → b.txv = true
  /-- I10 -/
  knownResult : b.rg.result ∈
    ([0x00#8, 0x01#8, 0x02#8, 0x03#8, 0x04#8, 0x10#8, 0x11#8, 0x12#8, 0x13#8, 0x20#8, 0x21#8, 0x22#8] : List Byte)

/-- RXBUF's store is in canonical form and lists only the indices 0 to 63 (10_state.md R25). -/
def BufferInv (b : Codec) : Prop := Memory.wf b.rxBuf ∧ (∀ c ∈ b.rxBuf, c.1 < 64) ∧ b.rxLen.toNat ≤ 64

/-! ## The result group each operation is to give -/

/-- The group of an error that no stage before it touched (60_exceptions.md R191, R196 to R198). -/
def bareError (code : Byte) : ResultGroup := ⟨code, 0#8, 0#8, false, false, false, true⟩

/-- VENV's group as a function of the received sequence alone (41_receive_validate.md R122). -/
def envelopeGroup : List Byte → ResultGroup
  | [] => bareError 0x10#8
  | m :: _ => if m = 0xA5#8 then ⟨0x03#8, 0#8, 0#8, true, false, false, false⟩ else bareError 0x10#8

/-- PKIND's group as a function of the received sequence alone (42_kind_parse.md R137, R143). -/
def kindGroup : List Byte → ResultGroup
  | [] => bareError 0x10#8
  | [m] => if m = 0xA5#8 then ⟨0x12#8, 0#8, 0#8, true, false, false, true⟩ else bareError 0x10#8
  | m :: k :: _ =>
    if m = 0xA5#8 then
      if k ≤ 0x03#8 then ⟨0x04#8, k, 0#8, true, true, false, false⟩ else ⟨0x11#8, k, 0#8, true, false, false, true⟩
    else bareError 0x10#8

/-- The table of 43_interpret.md R163: the group of an outcome, for the received sequence it was computed from. -/
def outcomeGroup (s : List Byte) : DecodeOutcome → ResultGroup
  | .success => ⟨0x01#8, s.getD 1 0#8, 0#8, true, true, false, false⟩
  | .statusValue m => ⟨0x02#8, 0x02#8, m, true, true, true, false⟩
  | .envelopeError => bareError 0x10#8
  | .shapeError =>
    if s.length < 2 then ⟨0x12#8, 0#8, 0#8, true, false, false, true⟩ else ⟨0x12#8, s.getD 1 0#8, 0#8, true, true, false, true⟩
  | .decodeError b => ⟨0x11#8, b, 0#8, true, false, false, true⟩
  | .deviceError e => ⟨0x13#8, 0x01#8, e, true, true, true, true⟩

/-- The result group is never stale: it is zero, or the outcome of VENV, PKIND, DEC or a refusal computed from the
present CMD, TXV and received sequence (10_state.md R36, R37). -/
def FreshGroup (b : Codec) : Prop :=
  b.rg = ⟨0#8, 0#8, 0#8, false, false, false, false⟩ ∨
  b.rg = envelopeGroup b.rx ∨
  b.rg = kindGroup b.rx ∨
  (∃ c, b.txv = true ∧ parseCmd b.cmd = some c ∧ b.rg = outcomeGroup b.rx (interpret c b.rx)) ∨
  (b.txv = false ∧ b.rg = bareError 0x21#8) ∨
  (b.txv = false ∧ parseCmd b.cmd = none ∧ b.rxLen = 0#7 ∧ b.rg = bareError 0x20#8) ∨
  b.rg = bareError 0x22#8

/-! ## What can be observed -/

/-- Equal in every item but the bytes of RXBUF that RXLEN does not cover (10_state.md R27, R40). -/
def SameView (b d : Codec) : Prop :=
  b.cmd = d.cmd ∧ b.arg1 = d.arg1 ∧ b.arg2 = d.arg2 ∧ b.tx = d.tx ∧ b.txv = d.txv ∧ b.rg = d.rg ∧
  b.rxLen = d.rxLen ∧ ∀ i, i < b.rxLen.toNat → readByte b.rxBuf i = readByte d.rxBuf i

/-- The same for whole states: the host has issued and read the same. -/
def SameToTheHost (s t : State) : Prop :=
  SameView s.block t.block ∧ s.pending = t.pending ∧ s.lastRead = t.lastRead

/-- The instruction is one that makes a request valid or drops it: an operand write, ENC, CLR or a REQ row
(10_state.md R23, R24). -/
def touchesFrame : Instr → Bool
  | .setcmd _ | .seta1 _ | .seta2 _ | .enc | .clr => true
  | .reqPing _ _ | .reqGetstatus _ _ | .reqSetrelay _ _ | .reqTogglerelay _ _ | .reqSetall _ _ => true
  | .venv | .pkind | .dec | .oprsv _ | .rxb _ | .wrign _ _ | .rd _ => false
  | .rspOk _ | .rspErr _ | .rspStatus _ | .rspPong _ | .rspUnknown _ _ | .rspBadmagic _ => false

/-- The instruction pushes received bytes: RXB or an RSP row (10_state.md R25). -/
def pushesBytes : Instr → Bool
  | .rxb _ | .rspOk _ | .rspErr _ | .rspStatus _ | .rspPong _ | .rspUnknown _ _ | .rspBadmagic _ => true
  | .enc | .venv | .pkind | .dec | .clr | .oprsv _ | .setcmd _ | .seta1 _ | .seta2 _ | .wrign _ _ | .rd _ => false
  | .reqPing _ _ | .reqGetstatus _ _ | .reqSetrelay _ _ | .reqTogglerelay _ _ | .reqSetall _ _ => false

/-- The instruction encodes a request: ENC or a REQ row (10_state.md R24). -/
def encodesRequest : Instr → Bool
  | .enc | .reqPing _ _ | .reqGetstatus _ _ | .reqSetrelay _ _ | .reqTogglerelay _ _ | .reqSetall _ _ => true
  | .venv | .pkind | .dec | .clr | .oprsv _ | .setcmd _ | .seta1 _ | .seta2 _ | .rxb _ | .wrign _ _ | .rd _ => false
  | .rspOk _ | .rspErr _ | .rspStatus _ | .rspPong _ | .rspUnknown _ _ | .rspBadmagic _ => false

end Sys2Proof.Machine
end

