-- ==== Sys2Proof/Certificates/Slice0/Obligations.lean ====
section
/-! DEFINITION. The statements for the provers, taken from the numbered rules of spec/ file by file. -/

open Sys2Proof Sys2Proof.Machine

/-! ## Encodings: 30_encoding.md -/

/-- R71 to R77, R84: decoding the encoding of any instruction of the opcode table, with every operand, gives it
back. -/
def Obligations.DecodeOfEncodeIsTheInstruction : Prop :=
  ∀ i : Instr, i.wf = true → decode (encode i).1 (encode i).2 = .ok i

/-- R71 to R77, R84: whatever bytes decode to an instruction are the encoding of it, and it is one of the table's;
so no two encodings share a meaning and no catch-all row takes a word of an earlier row. -/
def Obligations.EncodeOfDecodeIsTheBytes : Prop :=
  ∀ (f : Format) (bytes : List Byte) (i : Instr), decode f bytes = .ok i → encode i = (f, bytes) ∧ i.wf = true

/-- A few words of the table, read as the host reads them (R72, R74, R75, R76, R77, R81). The reading of a bare 16-bit
number as a response is the model's choice (notes/assumptions/11.md). -/
def Obligations.TableWordsDecode : Prop :=
  decodeTableWord 16 0x0001 = some .enc ∧ decodeTableWord 16 0x0005 = some .clr ∧
  decodeTableWord 16 0x0006 = some (.oprsv 0x06#8) ∧ decodeTableWord 16 0x0103 = some (.setcmd 0x03#8) ∧
  decodeTableWord 16 0x04A5 = some (.rxb 0xA5#8) ∧ decodeTableWord 16 0x0701 = some (.wrign 0x07#8 0x01#8) ∧
  decodeTableWord 8 0x07 = some (.rd 0x07#8) ∧
  decodeTableWord 32 0xA5030301 = some (.reqSetrelay 0x03#8 0x01#8) ∧
  decodeTableWord 16 0xA503 = some (.rspPong []) ∧ decodeTableWord 16 0xA504 = some (.rspUnknown 0x04#8 [])

/-- R85, R100 to R102, R135: the command codes and the kind codes byte by byte, every other byte being none, and the
four round-trip laws. -/
def Obligations.CodeRoundTrips : Prop :=
  cmdCode .ping = 0x01#8 ∧ cmdCode .getStatus = 0x02#8 ∧ cmdCode .setRelay = 0x03#8 ∧
  cmdCode .toggleRelay = 0x04#8 ∧ cmdCode .setAll = 0x05#8 ∧
  kindCode .ok = 0x00#8 ∧ kindCode .err = 0x01#8 ∧ kindCode .status = 0x02#8 ∧ kindCode .pong = 0x03#8 ∧
  (∀ b : Byte, b = 0x00#8 ∨ 0x05#8 < b → parseCmd b = none) ∧
  (∀ c, parseCmd (cmdCode c) = some c) ∧ (∀ b c, parseCmd b = some c → cmdCode c = b) ∧
  (∀ k, parseKind (kindCode k) = .kind k) ∧ (∀ b k, parseKind b = .kind k → kindCode k = b)

/-- R184: every one-byte host write is exactly one HW16 instruction and every host read is RD; from every state that
meets the invariants of R35 each of them, issued next, has a next state; and the two things outside the interface, a
second host (R61) and an access wider than a byte (R55), are refused. -/
def Obligations.HostInterfaceIsComplete : Prop :=
  (∀ off v : Byte, ∃! i : Instr, i.wf = true ∧ encode i = (.hw16, [off, v])) ∧
  (∀ (off : Byte) (i : Instr), (i.wf = true ∧ encode i = (.hrd, [off])) ↔ i = .rd off) ∧
  (∀ (s : State) (off v : Byte) (rest : List Access), BlockInv s.block →
    s.pending = ⟨.theHost, .hw16, [off, v]⟩ :: rest → ∃ t, step s = .next t ∧ t.pending = rest) ∧
  (∀ (s : State) (off : Byte) (rest : List Access),
    s.pending = ⟨.theHost, .hrd, [off]⟩ :: rest →
    step s = .next { s with pending := rest, lastRead := some (hostRead s.block off) }) ∧
  (∀ (s : State) (f : Format) (bytes : List Byte) (rest : List Access),
    s.pending = ⟨.secondHost, f, bytes⟩ :: rest → step s = .refused .secondHost) ∧
  (∀ (s : State) (x y z : Byte) (more : List Byte) (rest : List Access),
    s.pending = ⟨.theHost, .hw16, x :: y :: z :: more⟩ :: rest → step s = .refused .wideAccess) ∧
  (∀ (s : State) (x y : Byte) (more : List Byte) (rest : List Access),
    s.pending = ⟨.theHost, .hrd, x :: y :: more⟩ :: rest → step s = .refused .wideAccess)

/-- What stops, by name: an access cut off before its data byte or its offset; bytes offered as a request that are none
of the five frames; and DEC where a request is marked and CMD is no command, which no run reaches. The model's choices
(notes/assumptions/8.md and 10.md). -/
def Obligations.StopsAreNamed : Prop :=
  (∀ (s : State) (rest : List Access),
    (s.pending = ⟨.theHost, .hw16, []⟩ :: rest ∨ s.pending = ⟨.theHost, .hrd, []⟩ :: rest ∨
      ∃ off, s.pending = ⟨.theHost, .hw16, [off]⟩ :: rest) →
    step s = .refused .truncatedAccess) ∧
  (∀ (s : State) (bytes : List Byte) (rest : List Access),
    s.pending = ⟨.theHost, .req, bytes⟩ :: rest → (¬∃ c a1 a2, bytes = [0xA5#8, cmdCode c, a1, a2]) →
    step s = .refused .notARequestFrame) ∧
  (∀ s : State, s.block.txv = true → parseCmd s.block.cmd = none → exec .dec s = .refused .noCommand)

/-! ## Pure functions: 40_encode.md, 41_receive_validate.md, 42_kind_parse.md, 43_interpret.md, 20_memory.md -/

/-- R103: the request frame has four bytes, the magic byte first and the arguments unchanged; its command byte parses
back; and distinct inputs give distinct frames. -/
def Obligations.RequestFrameShape : Prop :=
  (∀ (c : Command) (a1 a2 : Byte),
    (encodeRequest c a1 a2).bytes = [0xA5#8, cmdCode c, a1, a2] ∧
    parseCmd (encodeRequest c a1 a2).tx1 = some c) ∧
  (∀ (c c' : Command) (a1 a2 a1' a2' : Byte),
    encodeRequest c a1 a2 = encodeRequest c' a1' a2' → c = c' ∧ a1 = a1' ∧ a2 = a2')

/-- R121: the envelope is valid exactly for the sequences that begin with 0xA5. -/
def Obligations.EnvelopeValidatorAcceptsMagicOnly : Prop :=
  ∀ s : List Byte,
    ((∃ t, s = 0xA5#8 :: t) → validateEnvelope s = .ok) ∧
    ((¬∃ t, s = 0xA5#8 :: t) → validateEnvelope s = .invalidMagic)

/-- R136: the kind parser is total, accepts the four codes and rejects every other byte, which it carries; and its
laws. -/
def Obligations.KindParserIsTotal : Prop :=
  parseKind 0x00#8 = .kind .ok ∧ parseKind 0x01#8 = .kind .err ∧ parseKind 0x02#8 = .kind .status ∧
  parseKind 0x03#8 = .kind .pong ∧ (∀ b : Byte, 0x03#8 < b → parseKind b = .unknown b) ∧
  (∀ b k, parseKind b = .kind k → kindCode k = b) ∧ (∀ b b', parseKind b = .unknown b' → b' = b ∧ 0x04#8 ≤ b)

/-- R162: the flat decision table of `interpret`, row by row. -/
def Obligations.InterpretDecisionTable : Prop :=
  ∀ c : Command,
    interpret c [] = .envelopeError ∧
    (∀ (m : Byte) (t : List Byte), m ≠ 0xA5#8 → interpret c (m :: t) = .envelopeError) ∧
    interpret c [0xA5#8] = .shapeError ∧
    (∀ (k : Byte) (p : List Byte), 0x03#8 < k → interpret c (0xA5#8 :: k :: p) = .decodeError k) ∧
    (∀ p : List Byte, interpret c (0xA5#8 :: 0x00#8 :: p) =
      if c = .setRelay ∨ c = .toggleRelay ∨ c = .setAll then .success else .shapeError) ∧
    (∀ p : List Byte, p.length < 2 → interpret c (0xA5#8 :: 0x01#8 :: p) =
      if c = .setRelay ∨ c = .toggleRelay then .deviceError 0xFF#8 else .shapeError) ∧
    (∀ (x y : Byte) (p : List Byte), interpret c (0xA5#8 :: 0x01#8 :: x :: y :: p) =
      if c = .setRelay ∨ c = .toggleRelay then .deviceError y else .shapeError) ∧
    (∀ p : List Byte, p.length < 2 → interpret c (0xA5#8 :: 0x02#8 :: p) = .shapeError) ∧
    (∀ (x y : Byte) (p : List Byte), interpret c (0xA5#8 :: 0x02#8 :: x :: y :: p) =
      if c = .getStatus then .statusValue y else .shapeError) ∧
    (∀ p : List Byte, interpret c (0xA5#8 :: 0x03#8 :: p) = if c = .ping then .success else .shapeError)

/-- R161: two sequences that agree on their length up to 4 and on the bytes at indices 0, 1 and 3 have the same
outcome: no other byte is read; and under kind Ok or Pong no payload byte at all is. -/
def Obligations.OtherBytesAreIgnored : Prop :=
  (∀ (c : Command) (s t : List Byte),
    min s.length 4 = min t.length 4 → s[0]? = t[0]? → s[1]? = t[1]? → s[3]? = t[3]? →
    interpret c s = interpret c t) ∧
  (∀ (c : Command) (p q : List Byte),
    interpret c (0xA5#8 :: 0x00#8 :: p) = interpret c (0xA5#8 :: 0x00#8 :: q) ∧
    interpret c (0xA5#8 :: 0x03#8 :: p) = interpret c (0xA5#8 :: 0x03#8 :: q))

/-- R227 and 93_implementation_defined.md U9: what is cut off behind any bound of at least 4 bytes cannot change an
outcome. -/
def Obligations.CutOffBytesAreIrrelevant : Prop :=
  ∀ (c : Command) (s : List Byte) (n : Nat), 4 ≤ n → interpret c (s.take n) = interpret c s

/-- R150: `min_len` and `len_ok`; and where a command expects the kind it is given, the length validator alone
decides: the response counts as a success (a value under GetStatus) exactly when its length is at least `min_len`. -/
def Obligations.LengthValidatorDecides : Prop :=
  minLen .getStatus .status = 4 ∧ (∀ c k, (c, k) ≠ (Command.getStatus, ResponseKind.status) → minLen c k = 2) ∧
  (∀ c k n, lenOk c k n = true ↔ minLen c k ≤ n) ∧
  ∀ (c : Command) (k : ResponseKind) (p : List Byte),
    (c, k) ∈ [(Command.ping, ResponseKind.pong), (.getStatus, .status), (.setRelay, .ok), (.toggleRelay, .ok),
      (.setAll, .ok)] →
    ((interpret c (0xA5#8 :: kindCode k :: p) = .success ∨
      ∃ m, interpret c (0xA5#8 :: kindCode k :: p) = .statusValue m) ↔ lenOk c k (p.length + 2) = true)

/-- R52: bit i of a bitmask is relay i, bit 0 the least significant. -/
def Obligations.BitmaskBitIsRelay : Prop :=
  (∀ (m : Byte) (i : Fin 8), relayOn m i = true ↔ (m >>> i.val) &&& 1#8 = 1#8) ∧
  ((List.finRange 8).filter fun i => relayOn 0x05#8 i) = [0, 2]

/-- R159: the source's message for each outcome, from RESULT and CMD alone, with KINDBYTE or DATA where the table
names it. That the three E_SHAPE clauses hold of an E_SHAPE from PKIND too, for which R159 says the source has no
message, is the model's choice (notes/assumptions/14.md). -/
def Obligations.MessagesFollowTheTable : Prop :=
  ∀ b : Codec,
    (b.rg.result = 0x10#8 → report b = some (.message "invalid magic byte")) ∧
    (b.rg.result = 0x11#8 → report b = some (.messageWithByte "unknown response type" b.rg.kindByte)) ∧
    (b.rg.result = 0x12#8 → b.cmd = 0x01#8 → report b = some (.message "invalid ping response")) ∧
    (b.rg.result = 0x12#8 → b.cmd = 0x02#8 → report b = some (.message "invalid status response")) ∧
    (b.rg.result = 0x12#8 → b.cmd = 0x03#8 ∨ b.cmd = 0x04#8 ∨ b.cmd = 0x05#8 →
      report b = some (.message "invalid response")) ∧
    (b.rg.result = 0x13#8 → b.cmd = 0x03#8 ∨ b.cmd = 0x04#8 → report b = some (.deviceCode b.rg.data))

/-- R200: raising an error writes its code to RESULT and sets FAIL; every other item of the result group and every
register outside it stays. -/
def Obligations.RaiseRecordsTheError : Prop :=
  ∀ (e : ErrorClass) (b : Codec), OperandsKept b (raise e b) ∧ FrameKept b (raise e b) ∧ ReceiveKept b (raise e b) ∧
    (raise e b).rg.fail = true ∧ (raise e b).rg.kindByte = b.rg.kindByte ∧ (raise e b).rg.data = b.rg.data ∧
    (raise e b).rg.envOk = b.rg.envOk ∧ (raise e b).rg.kindOk = b.rg.kindOk ∧ (raise e b).rg.dataV = b.rg.dataV ∧
    (raise e b).rg.result = match e with
      | .eEnvelope => 0x10#8
      | .eDecode => 0x11#8
      | .eShape => 0x12#8
      | .eDevice => 0x13#8
      | .rBadcmd => 0x20#8
      | .rNoreq => 0x21#8
      | .rBadop => 0x22#8

/-! ## The command encoder: 40_encode.md -/

/-- R104: SETCMD stores the byte, drops the frame, clears the result group and leaves everything else. -/
def Obligations.SetcmdStoresAndInvalidates : Prop :=
  ∀ (v : Byte) (s : State), decode .hw16 [0x01#8, v] = .ok (.setcmd v) ∧
    ∃ t, exec (.setcmd v) s = .next t ∧ t.block.cmd = v ∧ t.block.txv = false ∧ t.block.tx = ⟨0#8, 0#8, 0#8, 0#8⟩ ∧
      t.block.rg = ⟨0#8, 0#8, 0#8, false, false, false, false⟩ ∧
      t.block.arg1 = s.block.arg1 ∧ t.block.arg2 = s.block.arg2 ∧ ReceiveKept s.block t.block ∧ HostSideKept s t

/-- R105: SETA1, likewise. -/
def Obligations.Seta1StoresAndInvalidates : Prop :=
  ∀ (v : Byte) (s : State), decode .hw16 [0x02#8, v] = .ok (.seta1 v) ∧
    ∃ t, exec (.seta1 v) s = .next t ∧ t.block.arg1 = v ∧ t.block.txv = false ∧ t.block.tx = ⟨0#8, 0#8, 0#8, 0#8⟩ ∧
      t.block.rg = ⟨0#8, 0#8, 0#8, false, false, false, false⟩ ∧
      t.block.cmd = s.block.cmd ∧ t.block.arg2 = s.block.arg2 ∧ ReceiveKept s.block t.block ∧ HostSideKept s t

/-- R106: SETA2, likewise. -/
def Obligations.Seta2StoresAndInvalidates : Prop :=
  ∀ (v : Byte) (s : State), decode .hw16 [0x03#8, v] = .ok (.seta2 v) ∧
    ∃ t, exec (.seta2 v) s = .next t ∧ t.block.arg2 = v ∧ t.block.txv = false ∧ t.block.tx = ⟨0#8, 0#8, 0#8, 0#8⟩ ∧
      t.block.rg = ⟨0#8, 0#8, 0#8, false, false, false, false⟩ ∧
      t.block.cmd = s.block.cmd ∧ t.block.arg1 = s.block.arg1 ∧ ReceiveKept s.block t.block ∧ HostSideKept s t

/-- R107: with a command code in CMD, ENC leaves its frame in TXBUF, sets TXV, empties the receive sequence and clears
the result group; with any other byte it is refused with R_BADCMD, leaves no frame and empties the sequence as well.
The operands and the bytes of RXBUF stay. -/
def Obligations.EncEncodesOrRefuses : Prop :=
  decode .hw16 [0x00#8, 0x01#8] = .ok .enc ∧
  (∀ (s : State), 0x01#8 ≤ s.block.cmd → s.block.cmd ≤ 0x05#8 →
    ∃ t, exec .enc s = .next t ∧ t.block.tx = ⟨0xA5#8, s.block.cmd, s.block.arg1, s.block.arg2⟩ ∧
      t.block.txv = true ∧ t.block.rxLen = 0#7 ∧ t.block.rg = ⟨0#8, 0#8, 0#8, false, false, false, false⟩ ∧
      OperandsKept s.block t.block ∧ RxBytesKept s.block t.block ∧ HostSideKept s t) ∧
  (∀ (s : State), ¬(0x01#8 ≤ s.block.cmd ∧ s.block.cmd ≤ 0x05#8) →
    ∃ t, exec .enc s = .next t ∧ t.block.tx = ⟨0#8, 0#8, 0#8, 0#8⟩ ∧
      t.block.txv = false ∧ t.block.rxLen = 0#7 ∧ t.block.rg = ⟨0x20#8, 0#8, 0#8, false, false, false, true⟩ ∧
      OperandsKept s.block t.block ∧ RxBytesKept s.block t.block ∧ HostSideKept s t)

/-- R108 to R112, R113: from every state and for every pair of arguments, each request row leaves its frame, with TXV
set, nothing received and no outcome. That the row stands for its production by SETCMD, SETA1, SETA2, ENC is the
model's reading (notes/assumptions/5.md). -/
def Obligations.RequestRowsProduceTheirFrame : Prop :=
  ∀ (a1 a2 : Byte) (s : State),
    let produces (i : Instr) (code : Byte) : Prop :=
      ∃ t, exec i s = .next t ∧ t.block.tx = ⟨0xA5#8, code, a1, a2⟩ ∧ t.block.txv = true ∧
        t.block.cmd = code ∧ t.block.arg1 = a1 ∧ t.block.arg2 = a2 ∧ t.block.rxLen = 0#7 ∧
        t.block.rg = ⟨0#8, 0#8, 0#8, false, false, false, false⟩ ∧ RxBytesKept s.block t.block ∧ HostSideKept s t
    produces (.reqPing a1 a2) 0x01#8 ∧ produces (.reqGetstatus a1 a2) 0x02#8 ∧
    produces (.reqSetrelay a1 a2) 0x03#8 ∧ produces (.reqTogglerelay a1 a2) 0x04#8 ∧
    produces (.reqSetall a1 a2) 0x05#8

/-- R82: each request row is the run of its pseudo-instruction REQ, one host operation after another. The model's
reading of the row (notes/assumptions/5.md). -/
def Obligations.RequestRowsAreTheirExpansion : Prop :=
  ∀ (a1 a2 : Byte) (s : State),
    exec (.reqPing a1 a2) s = execAll (pseudoReq 0x01#8 a1 a2) s ∧
    exec (.reqGetstatus a1 a2) s = execAll (pseudoReq 0x02#8 a1 a2) s ∧
    exec (.reqSetrelay a1 a2) s = execAll (pseudoReq 0x03#8 a1 a2) s ∧
    exec (.reqTogglerelay a1 a2) s = execAll (pseudoReq 0x04#8 a1 a2) s ∧
    exec (.reqSetall a1 a2) s = execAll (pseudoReq 0x05#8 a1 a2) s

/-- R83: each sub-command of the source's command line, run as its REQ, leaves the request frame of the table. -/
def Obligations.SubCommandsProduceTheirFrame : Prop :=
  ∀ s : State,
    let frameAfter (is : List Instr) (f : List Byte) : Prop :=
      ∃ t, execAll is s = .next t ∧ t.block.txv = true ∧ t.block.tx.bytes = f
    frameAfter (subCommandReq .ping) [0xA5#8, 0x01#8, 0#8, 0#8] ∧
    frameAfter (subCommandReq .status) [0xA5#8, 0x02#8, 0#8, 0#8] ∧
    (∀ r, frameAfter (subCommandReq (.set r true)) [0xA5#8, 0x03#8, r, 1#8]) ∧
    (∀ r, frameAfter (subCommandReq (.set r false)) [0xA5#8, 0x03#8, r, 0#8]) ∧
    (∀ r, frameAfter (subCommandReq (.toggle r)) [0xA5#8, 0x04#8, r, 0#8]) ∧
    (∀ m, frameAfter (subCommandReq (.all m)) [0xA5#8, 0x05#8, m, 0#8])

/-! ## The receive buffer and the stages: 41_receive_validate.md, 42_kind_parse.md, 43_interpret.md -/

/-- R120: below 64 received bytes RXB stores the byte at index RXLEN, appends it to the received sequence and clears
the result group; at 64 it drops the byte and no state changes at all. -/
def Obligations.RxbAppendsOrDrops : Prop :=
  ∀ (v : Byte) (s : State), decode .hw16 [0x04#8, v] = .ok (.rxb v) ∧
    (s.block.rxLen.toNat < 64 →
      ∃ t, exec (.rxb v) s = .next t ∧ t.block.rx = s.block.rx ++ [v] ∧
        t.block.rxLen.toNat = s.block.rxLen.toNat + 1 ∧
        t.block.rg = ⟨0#8, 0#8, 0#8, false, false, false, false⟩ ∧
        (∀ i, i ≠ s.block.rxLen.toNat → readByte t.block.rxBuf i = readByte s.block.rxBuf i) ∧
        OperandsKept s.block t.block ∧ FrameKept s.block t.block ∧ HostSideKept s t) ∧
    (64 ≤ s.block.rxLen.toNat → exec (.rxb v) s = .next s)

/-- R54, R80, R227: pushing any number of bytes leaves the received sequence continued by them and cut at 64, and
every byte of RXBUF outside the indices stored to as it was. -/
def Obligations.PushedBytesAreCutAt64 : Prop :=
  ∀ (bytes : List Byte) (s : State), s.block.rxLen.toNat ≤ 64 →
    ∃ t, execAll (pseudoRx bytes) s = .next t ∧ t.block.rx = (s.block.rx ++ bytes).take 64 ∧
      (∀ i, i < s.block.rxLen.toNat ∨ min (s.block.rxLen.toNat + bytes.length) 64 ≤ i →
        readByte t.block.rxBuf i = readByte s.block.rxBuf i) ∧
      OperandsKept s.block t.block ∧ FrameKept s.block t.block ∧ HostSideKept s t

/-- R122: VENV, on every state: ENV_PASS where the received sequence begins with 0xA5, E_ENVELOPE otherwise, and only
the result group is written. -/
def Obligations.VenvOutcome : Prop :=
  decode .hw16 [0x00#8, 0x02#8] = .ok .venv ∧
  ∀ s : State, ∃ t, exec .venv s = .next t ∧ OnlyResultGroup s t ∧
    ((∃ p, s.block.rx = 0xA5#8 :: p) → t.block.rg = ⟨0x03#8, 0#8, 0#8, true, false, false, false⟩) ∧
    ((¬∃ p, s.block.rx = 0xA5#8 :: p) → t.block.rg = ⟨0x10#8, 0#8, 0#8, false, false, false, true⟩)

/-- R137, R143: PKIND, on every state: E_ENVELOPE, the short case, E_DECODE with the byte, or KIND_PASS; only the
result group is written. -/
def Obligations.PkindOutcome : Prop :=
  decode .hw16 [0x00#8, 0x03#8] = .ok .pkind ∧
  ∀ s : State, ∃ t, exec .pkind s = .next t ∧ OnlyResultGroup s t ∧
    ((¬∃ p, s.block.rx = 0xA5#8 :: p) → t.block.rg = ⟨0x10#8, 0#8, 0#8, false, false, false, true⟩) ∧
    (s.block.rx = [0xA5#8] → t.block.rg = ⟨0x12#8, 0#8, 0#8, true, false, false, true⟩) ∧
    (∀ k p, s.block.rx = 0xA5#8 :: k :: p → 0x03#8 < k → t.block.rg = ⟨0x11#8, k, 0#8, true, false, false, true⟩) ∧
    (∀ k p, s.block.rx = 0xA5#8 :: k :: p → k ≤ 0x03#8 → t.block.rg = ⟨0x04#8, k, 0#8, true, true, false, false⟩)

/-- R158, R163, R197: with no request encoded DEC is refused with R_NOREQ and examines nothing; with one, it writes the
image of `interpret` for the command issued and the received sequence; either way nothing outside the result group
changes. -/
def Obligations.DecRefinesInterpret : Prop :=
  decode .hw16 [0x00#8, 0x04#8] = .ok .dec ∧
  (∀ s : State, s.block.txv = false →
    ∃ t, exec .dec s = .next t ∧ OnlyResultGroup s t ∧ t.block.rg = ⟨0x21#8, 0#8, 0#8, false, false, false, true⟩) ∧
  (∀ (s : State) (c : Command), s.block.txv = true → s.block.cmd = cmdCode c →
    ∃ t, exec .dec s = .next t ∧ OnlyResultGroup s t ∧
      t.block.rg = outcomeGroup s.block.rx (interpret c s.block.rx))

/-- R123, R199: a bad envelope decides before anything else: VENV, PKIND and, with a request, DEC all give E_ENVELOPE,
with KINDBYTE and DATA zero, whatever the rest of the buffer and whatever the command. -/
def Obligations.EnvelopeErrorComesFirst : Prop :=
  ∀ s : State, (¬∃ p, s.block.rx = 0xA5#8 :: p) →
    (∃ t, exec .venv s = .next t ∧ t.block.rg = bareError 0x10#8) ∧
    (∃ t, exec .pkind s = .next t ∧ t.block.rg = bareError 0x10#8) ∧
    (∀ c, s.block.txv = true → s.block.cmd = cmdCode c → ∃ t, exec .dec s = .next t ∧ t.block.rg = bareError 0x10#8)

/-- R122 (e), R158 (b): VENV, PKIND and DEC may be repeated: from the state one of them leaves, it leaves that state
again. -/
def Obligations.DecodeFamilyIsIdempotent : Prop :=
  ∀ (i : Instr) (s t : State), i ∈ [Instr.venv, .pkind, .dec] → exec i s = .next t → exec i t = .next t

/-- R225, R226: once four bytes are received, more bytes and a repeated DEC give the outcome of before. -/
def Obligations.LateBytesKeepTheOutcome : Prop :=
  ∀ (s t : State) (bytes : List Byte), 4 ≤ s.block.rxLen.toNat → s.block.rxLen.toNat ≤ 64 →
    exec .dec s = .next t →
    ∃ u, execAll (pseudoRx bytes ++ [.dec]) t = .next u ∧ u.block.rg = t.block.rg

/-- R138 to R141: after a request with nothing received yet, each of the four kinds ends as the command's row of the
table says, its payload from index 3 on read only as the command and the kind ask; the sequence received is the
frame cut at 64, and RXBUF is as it was at every index the frame does not reach. That the row stands for its delivery and DEC is the model's reading (notes/assumptions/6.md). -/
def Obligations.ResponseRowsOutcome : Prop :=
  ∀ (s : State) (c : Command) (p : List Byte), s.block.txv = true → s.block.cmd = cmdCode c → s.block.rxLen = 0#7 →
    let ends (i : Instr) (kind : Byte) (g : ResultGroup) : Prop :=
      ∃ t, exec i s = .next t ∧ t.block.rg = g ∧ t.block.rx = (0xA5#8 :: kind :: p).take 64 ∧
        (∀ j, min (p.length + 2) 64 ≤ j → readByte t.block.rxBuf j = readByte s.block.rxBuf j) ∧
        OperandsKept s.block t.block ∧ FrameKept s.block t.block ∧ HostSideKept s t
    let shape (kind : Byte) : ResultGroup := ⟨0x12#8, kind, 0#8, true, true, false, true⟩
    ends (.rspOk p) 0x00#8 (if c = .setRelay ∨ c = .toggleRelay ∨ c = .setAll then
      ⟨0x01#8, 0x00#8, 0#8, true, true, false, false⟩ else shape 0x00#8) ∧
    ends (.rspErr p) 0x01#8 (if c = .setRelay ∨ c = .toggleRelay then
      ⟨0x13#8, 0x01#8, (p[1]?).getD 0xFF#8, true, true, true, true⟩ else shape 0x01#8) ∧
    ends (.rspStatus p) 0x02#8 (match p[1]? with
      | some m => if c = .getStatus then ⟨0x02#8, 0x02#8, m, true, true, true, false⟩ else shape 0x02#8
      | none => shape 0x02#8) ∧
    ends (.rspPong p) 0x03#8 (if c = .ping then ⟨0x01#8, 0x03#8, 0#8, true, true, false, false⟩ else shape 0x03#8)

/-- R142: after a request with nothing received yet, an unknown kind byte ends in E_DECODE carrying it and a bad
envelope in E_ENVELOPE, under every command. That the row stands for its delivery and DEC is the model's reading
(notes/assumptions/6.md). -/
def Obligations.CatchAllResponsesOutcome : Prop :=
  ∀ (s : State) (c : Command), s.block.txv = true → s.block.cmd = cmdCode c → s.block.rxLen = 0#7 →
    (∀ (k : Byte) (p : List Byte), 0x03#8 < k →
      ∃ t, exec (.rspUnknown k p) s = .next t ∧ t.block.rg = ⟨0x11#8, k, 0#8, true, false, false, true⟩ ∧
        t.block.rx = (0xA5#8 :: k :: p).take 64 ∧
        (∀ j, min (p.length + 2) 64 ≤ j → readByte t.block.rxBuf j = readByte s.block.rxBuf j) ∧
        OperandsKept s.block t.block ∧ FrameKept s.block t.block ∧ HostSideKept s t) ∧
    (∀ f : List Byte, badEnvelope f = true →
      ∃ t, exec (.rspBadmagic f) s = .next t ∧ t.block.rg = ⟨0x10#8, 0#8, 0#8, false, false, false, true⟩ ∧
        t.block.rx = f.take 64 ∧
        (∀ j, min f.length 64 ≤ j → readByte t.block.rxBuf j = readByte s.block.rxBuf j) ∧
        OperandsKept s.block t.block ∧ FrameKept s.block t.block ∧ HostSideKept s t)

/-- R82, R223: from every state, each response row is the run of one RXB per byte and then DEC. The model's reading of
the row (notes/assumptions/6.md). -/
def Obligations.ResponseRowsAreTheirExpansion : Prop :=
  ∀ (p : List Byte) (s : State),
    exec (.rspOk p) s = execAll (pseudoRx (0xA5#8 :: 0x00#8 :: p) ++ [.dec]) s ∧
    exec (.rspErr p) s = execAll (pseudoRx (0xA5#8 :: 0x01#8 :: p) ++ [.dec]) s ∧
    exec (.rspStatus p) s = execAll (pseudoRx (0xA5#8 :: 0x02#8 :: p) ++ [.dec]) s ∧
    exec (.rspPong p) s = execAll (pseudoRx (0xA5#8 :: 0x03#8 :: p) ++ [.dec]) s ∧
    (∀ k, exec (.rspUnknown k p) s = execAll (pseudoRx (0xA5#8 :: k :: p) ++ [.dec]) s) ∧
    exec (.rspBadmagic p) s = execAll (pseudoRx p ++ [.dec]) s

/-! ## Control: 44_control.md, 10_state.md -/

/-- R180: CLR, from every state, brings every item to its reset value but the bytes of RXBUF, which stay. -/
def Obligations.ClrRestoresReset : Prop :=
  decode .hw16 [0x00#8, 0x05#8] = .ok .clr ∧
  ∀ s : State, ∃ t, exec .clr s = .next t ∧ t.block = { Codec.reset with rxBuf := s.block.rxBuf } ∧ HostSideKept s t

/-- R221: after CLR the host can tell nothing from reset: every offset reads as in the reset state, and so it does
after any further operations, run from both. -/
def Obligations.ClrIsObservablyReset : Prop :=
  ∀ (s t : State) (is : List Instr), exec .clr s = .next t →
    (∀ off, hostRead t.block off = hostRead Codec.reset off) ∧
    ∀ u, execAll is t = .next u →
      ∃ w, execAll is { t with block := Codec.reset } = .next w ∧ w.lastRead = u.lastRead ∧
        ∀ off, hostRead w.block off = hostRead u.block off

/-- R181, R198: every reserved OP code ends in R_BADOP and changes nothing outside the result group. -/
def Obligations.ReservedOpIsRefused : Prop :=
  ∀ d : Byte, reservedOp d = true → decode .hw16 [0x00#8, d] = .ok (.oprsv d) ∧
    ∀ s : State, ∃ t, exec (.oprsv d) s = .next t ∧ OnlyResultGroup s t ∧
      t.block.rg = ⟨0x22#8, 0#8, 0#8, false, false, false, true⟩

/-- R182: RD returns the byte of the register map and changes nothing of the block, at every offset. -/
def Obligations.RdReturnsTheRegister : Prop :=
  ∀ (s : State) (off : Byte), decode .hrd [off] = .ok (.rd off) ∧
    ∃ v, exec (.rd off) s = .next { s with lastRead := some v } ∧
      (off = 0x01#8 → v = s.block.cmd) ∧ (off = 0x02#8 → v = s.block.arg1) ∧ (off = 0x03#8 → v = s.block.arg2) ∧
      (off = 0x05#8 → v.toNat = s.block.rxLen.toNat) ∧
      (off = 0x06#8 → ∀ i, v.getLsbD i =
        ([s.block.txv, s.block.rg.envOk, s.block.rg.kindOk, s.block.rg.dataV, s.block.rg.fail].getD i false)) ∧
      (off = 0x07#8 → v = s.block.rg.result) ∧ (off = 0x08#8 → v = s.block.rg.kindByte) ∧
      (off = 0x09#8 → v = s.block.rg.data) ∧ (off = 0x0C#8 → v = s.block.tx.tx0) ∧
      (off = 0x0D#8 → v = s.block.tx.tx1) ∧ (off = 0x0E#8 → v = s.block.tx.tx2) ∧
      (off = 0x0F#8 → v = s.block.tx.tx3) ∧
      (off = 0x00#8 ∨ off = 0x04#8 ∨ off = 0x0A#8 ∨ off = 0x0B#8 ∨ 0x10#8 ≤ off → v = 0x00#8)

/-- R183: a write to offset 0x05 or above changes nothing. -/
def Obligations.IgnoredWritesChangeNothing : Prop :=
  ∀ (off v : Byte) (s : State), 0x05#8 ≤ off →
    decode .hw16 [off, v] = .ok (.wrign off v) ∧ exec (.wrign off v) s = .next s

/-- R39, R220: the state after reset, and equally after CLR from any state: every item at its reset value, every offset
of the host register space reading 0x00 and nothing received. RXBUF is left open by the rule and reads as the model
chose (notes/assumptions/1.md); nothing is stated of it. -/
def Obligations.ResetValues : Prop :=
  let atReset (b : Codec) : Prop :=
    b.cmd = 0x00#8 ∧ b.arg1 = 0x00#8 ∧ b.arg2 = 0x00#8 ∧ b.tx = ⟨0#8, 0#8, 0#8, 0#8⟩ ∧ b.txv = false ∧
    b.rxLen = 0#7 ∧ b.rg = ⟨0#8, 0#8, 0#8, false, false, false, false⟩ ∧ b.rx = [] ∧ ∀ off, hostRead b off = 0x00#8
  atReset State.reset.block ∧ ∀ s : State, ∃ t, exec .clr s = .next t ∧ atReset t.block

/-! ## Stepping: 20_memory.md R58, 70_reset_and_hazards.md -/

/-- R222: issued first after reset, ENC is refused with R_BADCMD and DEC with R_NOREQ, VENV and PKIND find the empty
buffer, and RXB stores a byte that a following ENC drops. -/
def Obligations.FirstOperationsAfterReset : Prop :=
  (∃ t, exec .enc State.reset = .next t ∧ t.block.rg = bareError 0x20#8 ∧ t.block.txv = false) ∧
  (∃ t, exec .dec State.reset = .next t ∧ t.block.rg = bareError 0x21#8) ∧
  (∃ t, exec .venv State.reset = .next t ∧ t.block.rg = bareError 0x10#8) ∧
  (∃ t, exec .pkind State.reset = .next t ∧ t.block.rg = bareError 0x10#8) ∧
  (∀ v, ∃ t u, exec (.rxb v) State.reset = .next t ∧ t.block.rx = [v] ∧ exec .enc t = .next u ∧ u.block.rx = [])

/-- The next pending access of the host, where it decodes to an instruction, is issued, and the step is exec of that
instruction (R58; the list of pending accesses is the model's own, notes/assumptions/3.md). -/
def Obligations.StepRunsTheDecodedInstruction : Prop :=
  ∀ (s : State) (f : Format) (bytes : List Byte) (rest : List Access) (i : Instr),
    s.pending = ⟨.theHost, f, bytes⟩ :: rest → decode f bytes = .ok i →
    step s = exec i { s with pending := rest }

/-- The other steps: with nothing pending nothing changes (R220), and the one-byte response [0xA5] is received and
decoded like any other (R143), here after a request: E_SHAPE with ENVOK = 1 and KINDOK = 0. Both are the model's
arrangement (notes/assumptions/3.md and 7.md). -/
def Obligations.IdleAndShortResponseSteps : Prop :=
  (∀ s : State, s.pending = [] → step s = .next s) ∧
  (∀ (s : State) (c : Command) (rest : List Access), s.pending = ⟨.theHost, .rsp, [0xA5#8]⟩ :: rest →
    s.block.txv = true → s.block.cmd = cmdCode c → s.block.rxLen = 0#7 →
    ∃ t, step s = .next t ∧ t.pending = rest ∧ t.block.rx = [0xA5#8] ∧
      t.block.rg = ⟨0x12#8, 0#8, 0#8, true, false, false, true⟩)

/-- R58 (c): running the accesses of a sequence of operations, one step each, is the fold of the operation rules over
the sequence. -/
def Obligations.RunIsTheFoldOfTheOperations : Prop :=
  ∀ (is : List Instr) (s : State), (∀ i ∈ is, i.wf = true) →
    Host.Core.run Sys2Proof.core is.length { s with pending := is.map Instr.access } =
      execAll is { s with pending := [] }

/-- R223 with R152, R163: from every state whatever, the exchange of a command, its arguments and any bytes of
response ends with the frame of the command in TXBUF, the received sequence being the first 64 bytes of the response,
and the outcome being that of `interpret` on the whole response. -/
def Obligations.ExchangeInterpretsTheResponse : Prop :=
  ∀ (s : State) (c : Command) (a1 a2 : Byte) (bytes : List Byte),
    ∃ t, execAll (pseudoXchg (cmdCode c) a1 a2 bytes) s = .next t ∧
      t.block.txv = true ∧ t.block.tx = ⟨0xA5#8, cmdCode c, a1, a2⟩ ∧ t.block.rx = bytes.take 64 ∧
      t.block.rg = outcomeGroup bytes (interpret c bytes)

/-- R233: when the DEC of an exchange has completed, RESULT is one of the seven outcomes of an exchange; and it reads
as Success or as Failed in the sense of R223, never as both. -/
def Obligations.ExchangeEndsInAnOutcome : Prop :=
  ∀ s t : State, exec .dec s = .next t →
    t.block.rg.result ∈ [0x01#8, 0x02#8, 0x10#8, 0x11#8, 0x12#8, 0x13#8, 0x21#8] ∧
    isSuccess t.block = !isFailed t.block

/-- R224: after an operand write, whatever operations follow that encode nothing, DEC is refused with R_NOREQ. -/
def Obligations.OperandWriteForbidsDecode : Prop :=
  ∀ (w : Instr) (v : Byte) (is : List Instr) (s t : State), w ∈ [Instr.setcmd v, .seta1 v, .seta2 v] →
    (∀ i ∈ is, encodesRequest i = false) → execAll (w :: is ++ [.dec]) s = .next t →
    t.block.rg = bareError 0x21#8

/-! ## Whole-machine rules: 10_state.md -/

/-- R23, R24: only an operand write, ENC, CLR or a request row changes TXBUF or TXV, and only ENC or a request row
sets TXV. -/
def Obligations.OnlyTheEncoderTouchesTheFrame : Prop :=
  ∀ (i : Instr) (s t : State), exec i s = .next t →
    (touchesFrame i = false → FrameKept s.block t.block ∧ OperandsKept s.block t.block) ∧
    (t.block.txv = true → s.block.txv = true ∨ encodesRequest i = true)

/-- R25, R26: RXBUF changes only where received bytes are pushed, never at an index already received and never at one
still beyond RXLEN afterwards; RXLEN never passes 64, and falls only to 0 and only by ENC, CLR or a request row. -/
def Obligations.OnlyRxbTouchesTheBuffer : Prop :=
  ∀ (i : Instr) (s t : State), exec i s = .next t →
    (pushesBytes i = false → RxBytesKept s.block t.block) ∧
    (∀ j, j < s.block.rxLen.toNat ∨ t.block.rxLen.toNat ≤ j →
      readByte t.block.rxBuf j = readByte s.block.rxBuf j) ∧
    (s.block.rxLen.toNat ≤ 64 → t.block.rxLen.toNat ≤ 64) ∧
    (s.block.rxLen.toNat ≤ t.block.rxLen.toNat ∨
      (t.block.rxLen = 0#7 ∧ (encodesRequest i = true ∨ i = .clr)))

/-- Property 14 of 95_test_vectors.md (R197, invariant I9): an operation that leaves TXV = 0 never leaves SUCCESS,
STATUS_VALUE or E_DEVICE, unless the outcome stood there before it. -/
def Obligations.NoOutcomeWithoutRequest : Prop :=
  ∀ (i : Instr) (s t : State), exec i s = .next t → t.block.txv = false →
    t.block.rg.result ∈ [0x01#8, 0x02#8, 0x13#8] → t.block.rg = s.block.rg

/-! ## Invariants: 10_state.md R35 to R37, R27 -/

/-- The reset state meets the invariants of R35, the freshness of R36, and the receive store's canonical form with its
bounds. The canonical form is the model's (notes/assumptions/2.md), with the blank byte of notes/assumptions/1.md; the
bounds are those of R25 and of invariant I3. -/
def Obligations.ResetMeetsTheInvariants : Prop :=
  BlockInv State.reset.block ∧ FreshGroup State.reset.block ∧ BufferInv State.reset.block

/-- R35: every step keeps the invariants I1 to I10. -/
def Obligations.StepKeepsBlockInv : Prop :=
  ∀ s t : State, BlockInv s.block → step s = .next t → BlockInv t.block

/-- R35: the invariants I1 to I10 hold in every state reachable from reset, whatever the host issues: StepKeepsBlockInv
and ResetMeetsTheInvariants, carried along a run. -/
def Obligations.ReachableStatesMeetBlockInv : Prop :=
  ∀ (n : Nat) (accesses : List Access) (t : State),
    Host.Core.run Sys2Proof.core n { State.reset with pending := accesses } = .next t → BlockInv t.block

/-- From a state that meets the invariants, no step ends in the refusal noCommand: neither DEC nor a response stops for
want of a command (R35 I1, R158). The refusal is the model's choice (notes/assumptions/8.md); of the other refusals
nothing is said here. -/
def Obligations.StepNeverLacksTheCommand : Prop :=
  ∀ s : State, BlockInv s.block → step s ≠ .refused .noCommand

/-- R36, R37: every step keeps the result group fresh: it is zero or the outcome of a decode operation or refusal
computed from the present command and the present received sequence. -/
def Obligations.StepKeepsTheResultFresh : Prop :=
  ∀ s t : State, FreshGroup s.block → step s = .next t → FreshGroup t.block

/-- Every step keeps the receive store in canonical form, within the 64 indices of RXBUF (R25, I3). The canonical form
is the model's (notes/assumptions/2.md), with the blank byte of notes/assumptions/1.md. -/
def Obligations.StepKeepsTheBufferForm : Prop :=
  ∀ s t : State, BufferInv s.block → step s = .next t → BufferInv t.block

/-- R27: the bytes of RXBUF at and beyond RXLEN are unobservable: two states that differ in nothing else step to the
same refusal, or to two states that again differ in nothing else and in which every offset reads the same. -/
def Obligations.StaleBytesAreUnobservable : Prop :=
  ∀ s s' : State, SameToTheHost s s' →
    (∀ t, step s = .next t → ∃ t', step s' = .next t' ∧ SameToTheHost t t' ∧
      ∀ off, hostRead t.block off = hostRead t'.block off) ∧
    (∀ r, step s = .refused r → step s' = .refused r)
end

