-- ==== Sys2Proof/Laws/Memory.lean ====
section
/-! SUPPORT. The byte store: a read after a write, and the canonical form that every operation keeps. -/

namespace Sys2Proof.Machine

theorem readByte_eraseByte_same (m : Memory) (a : Nat) : readByte (eraseByte m a) a = rxBlank := by
  induction m with
  | nil => rfl
  | cons c m ih =>
    obtain ⟨k, x⟩ := c
    by_cases h : k = a
    · simpa [eraseByte, h] using ih
    · simpa [eraseByte, readByte, h] using ih

theorem readByte_eraseByte_other (m : Memory) {a i : Nat} (h : i ≠ a) :
    readByte (eraseByte m a) i = readByte m i := by
  induction m with
  | nil => rfl
  | cons c m ih =>
    obtain ⟨k, x⟩ := c
    by_cases hk : k = a
    · simp [eraseByte, readByte, hk, h.symm, ih]
    · simp [eraseByte, readByte, hk, ih]

/-- No cell of the store has the index. -/
theorem mem_eraseByte {m : Memory} {a : Nat} {c : Host.Cell} (h : c ∈ eraseByte m a) : c ∈ m ∧ c.1 ≠ a := by
  induction m with
  | nil => cases h
  | cons d m ih =>
    obtain ⟨k, x⟩ := d
    by_cases hk : k = a
    · have := ih (by simpa [eraseByte, hk] using h)
      exact ⟨List.mem_cons_of_mem _ this.1, this.2⟩
    · rcases List.mem_cons.1 (by simpa [eraseByte, hk] using h) with rfl | h
      · exact ⟨List.mem_cons_self, hk⟩
      · exact ⟨List.mem_cons_of_mem _ (ih h).1, (ih h).2⟩

theorem mem_insertByte {m : Memory} {a : Nat} {v : Byte} {c : Host.Cell} :
    c ∈ insertByte m a v ↔ c = (a, v) ∨ c ∈ m := by
  induction m with
  | nil => simp [insertByte]
  | cons d m ih =>
    obtain ⟨k, x⟩ := d
    by_cases hk : a < k
    · simp [insertByte, hk]
    · simp [insertByte, hk, ih, or_left_comm]

theorem readByte_insertByte_same {m : Memory} {a : Nat} (v : Byte) (h : ∀ c ∈ m, c.1 ≠ a) :
    readByte (insertByte m a v) a = v := by
  induction m with
  | nil => simp [insertByte, readByte]
  | cons d m ih =>
    obtain ⟨k, x⟩ := d
    have hk : k ≠ a := h (k, x) List.mem_cons_self
    by_cases hlt : a < k
    · simp [insertByte, hlt, readByte]
    · simp [insertByte, hlt, readByte, hk, ih fun c hc => h c (List.mem_cons_of_mem _ hc)]

theorem readByte_insertByte_other (m : Memory) {a i : Nat} (v : Byte) (h : i ≠ a) :
    readByte (insertByte m a v) i = readByte m i := by
  induction m with
  | nil => simp [insertByte, readByte, h.symm]
  | cons d m ih =>
    obtain ⟨k, x⟩ := d
    by_cases hlt : a < k
    · simp [insertByte, hlt, readByte, h.symm]
    · simp [insertByte, hlt, readByte, ih]

/-- A read after a write to the same index gives the byte written. -/
theorem readByte_writeByte_same (m : Memory) (a : Nat) (v : Byte) : readByte (writeByte m a v) a = v := by
  unfold writeByte
  split
  · next h => rw [readByte_eraseByte_same, h]
  · exact readByte_insertByte_same v fun c hc => (mem_eraseByte hc).2

/-- A write leaves every other index alone. -/
theorem readByte_writeByte_other (m : Memory) {a i : Nat} (v : Byte) (h : i ≠ a) :
    readByte (writeByte m a v) i = readByte m i := by
  unfold writeByte
  split
  · exact readByte_eraseByte_other m h
  · rw [readByte_insertByte_other _ v h, readByte_eraseByte_other m h]

/-- What a write can list: the cell written and cells of before. -/
theorem mem_writeByte {m : Memory} {a : Nat} {v : Byte} {c : Host.Cell} (h : c ∈ writeByte m a v) :
    c = (a, v) ∨ c ∈ m := by
  unfold writeByte at h
  split at h
  · exact .inr (mem_eraseByte h).1
  · exact (mem_insertByte.1 h).imp_right fun hc => (mem_eraseByte hc).1

theorem wf_nil : Memory.wf [] := by simp [Memory.wf]

theorem wf_eraseByte {m : Memory} (a : Nat) (h : Memory.wf m) : Memory.wf (eraseByte m a) := by
  refine ⟨?_, fun c hc => h.2 c (mem_eraseByte hc).1⟩
  have h1 := h.1
  clear h
  induction m with
  | nil => exact List.Pairwise.nil
  | cons d m ih =>
    obtain ⟨k, x⟩ := d
    obtain ⟨hd, hm⟩ := List.pairwise_cons.1 h1
    by_cases hk : k = a
    · simpa [eraseByte, hk] using ih hm
    · simp only [eraseByte, hk, if_false]
      exact List.pairwise_cons.2 ⟨fun c hc => hd c (mem_eraseByte hc).1, ih hm⟩

theorem wf_insertByte {m : Memory} {a : Nat} {v : Byte} (h : Memory.wf m) (hv : v ≠ rxBlank)
    (ha : ∀ c ∈ m, c.1 ≠ a) : Memory.wf (insertByte m a v) := by
  refine ⟨?_, fun c hc => (mem_insertByte.1 hc).elim (fun e => e ▸ hv) (h.2 c)⟩
  have h1 := h.1
  clear h
  induction m with
  | nil => simp [insertByte]
  | cons d m ih =>
    obtain ⟨k, x⟩ := d
    obtain ⟨hd, hm⟩ := List.pairwise_cons.1 h1
    have hka : k ≠ a := ha (k, x) List.mem_cons_self
    by_cases hlt : a < k
    · simp only [insertByte, hlt, if_true]
      refine List.pairwise_cons.2 ⟨fun c hc => ?_, h1⟩
      rcases List.mem_cons.1 hc with rfl | hc
      · exact hlt
      · exact lt_trans hlt (hd c hc)
    · simp only [insertByte, hlt, if_false]
      refine List.pairwise_cons.2 ⟨fun c hc => ?_, ih (fun c hc => ha c (List.mem_cons_of_mem _ hc)) hm⟩
      rcases mem_insertByte.1 hc with rfl | hc
      · show k < a
        omega
      · exact hd c hc

/-- Every write keeps the canonical form. -/
theorem wf_writeByte {m : Memory} (a : Nat) (v : Byte) (h : Memory.wf m) : Memory.wf (writeByte m a v) := by
  unfold writeByte
  split
  · exact wf_eraseByte a h
  · next hv => exact wf_insertByte (wf_eraseByte a h) hv fun c hc => (mem_eraseByte hc).2

/-- Reset's store has the canonical form. -/
theorem wf_reset : Memory.wf State.reset.block.rxBuf := wf_nil

end Sys2Proof.Machine
end

