-- ==== Sys2Proof/Laws/State.lean ====
section
/-! SUPPORT. One lemma per field per update, each true by rfl: no later proof unfolds a record update. -/

namespace Sys2Proof.Machine

variable (s : State) (b d : Codec) (v : Byte) (e : ErrorClass) (p : PassClass)

/-! ## The whole state -/

@[simp] theorem withBlock_block : (s.withBlock d).block = d := rfl
@[simp] theorem withBlock_pending : (s.withBlock d).pending = s.pending := rfl
@[simp] theorem withBlock_lastRead : (s.withBlock d).lastRead = s.lastRead := rfl

/-! ## clear_rg, raise, pass and the single items of the result group -/

@[simp] theorem clearRg_cmd : (clearRg b).cmd = b.cmd := rfl
@[simp] theorem clearRg_arg1 : (clearRg b).arg1 = b.arg1 := rfl
@[simp] theorem clearRg_arg2 : (clearRg b).arg2 = b.arg2 := rfl
@[simp] theorem clearRg_tx : (clearRg b).tx = b.tx := rfl
@[simp] theorem clearRg_txv : (clearRg b).txv = b.txv := rfl
@[simp] theorem clearRg_rxBuf : (clearRg b).rxBuf = b.rxBuf := rfl
@[simp] theorem clearRg_rxLen : (clearRg b).rxLen = b.rxLen := rfl
@[simp] theorem clearRg_rg : (clearRg b).rg = ResultGroup.zero := rfl
@[simp] theorem clearRg_rx : (clearRg b).rx = b.rx := rfl

@[simp] theorem raise_cmd : (raise e b).cmd = b.cmd := rfl
@[simp] theorem raise_arg1 : (raise e b).arg1 = b.arg1 := rfl
@[simp] theorem raise_arg2 : (raise e b).arg2 = b.arg2 := rfl
@[simp] theorem raise_tx : (raise e b).tx = b.tx := rfl
@[simp] theorem raise_txv : (raise e b).txv = b.txv := rfl
@[simp] theorem raise_rxBuf : (raise e b).rxBuf = b.rxBuf := rfl
@[simp] theorem raise_rxLen : (raise e b).rxLen = b.rxLen := rfl
@[simp] theorem raise_rx : (raise e b).rx = b.rx := rfl
@[simp] theorem raise_result : (raise e b).rg.result = errorCode e := rfl
@[simp] theorem raise_fail : (raise e b).rg.fail = true := rfl
@[simp] theorem raise_kindByte : (raise e b).rg.kindByte = b.rg.kindByte := rfl
@[simp] theorem raise_data : (raise e b).rg.data = b.rg.data := rfl
@[simp] theorem raise_envOk : (raise e b).rg.envOk = b.rg.envOk := rfl
@[simp] theorem raise_kindOk : (raise e b).rg.kindOk = b.rg.kindOk := rfl
@[simp] theorem raise_dataV : (raise e b).rg.dataV = b.rg.dataV := rfl

@[simp] theorem pass_result : (pass p b).rg.result = passCode p := rfl
@[simp] theorem pass_kindByte : (pass p b).rg.kindByte = b.rg.kindByte := rfl
@[simp] theorem pass_data : (pass p b).rg.data = b.rg.data := rfl
@[simp] theorem pass_envOk : (pass p b).rg.envOk = b.rg.envOk := rfl
@[simp] theorem pass_kindOk : (pass p b).rg.kindOk = b.rg.kindOk := rfl
@[simp] theorem pass_dataV : (pass p b).rg.dataV = b.rg.dataV := rfl
@[simp] theorem pass_fail : (pass p b).rg.fail = b.rg.fail := rfl
@[simp] theorem pass_rx : (pass p b).rx = b.rx := rfl
@[simp] theorem setEnvOk_rx : (setEnvOk b).rx = b.rx := rfl
@[simp] theorem setEnvOk_envOk : (setEnvOk b).rg.envOk = true := rfl
@[simp] theorem setKindByte_rx : (setKindByte v b).rx = b.rx := rfl
@[simp] theorem setKindByte_kindByte : (setKindByte v b).rg.kindByte = v := rfl
@[simp] theorem setKindOk_rx : (setKindOk b).rx = b.rx := rfl
@[simp] theorem setKindOk_kindOk : (setKindOk b).rg.kindOk = true := rfl
@[simp] theorem setData_rx : (setData v b).rx = b.rx := rfl
@[simp] theorem setData_data : (setData v b).rg.data = v := rfl
@[simp] theorem setData_dataV : (setData v b).rg.dataV = true := rfl

/-! ## Operand writes, dropping a frame, emptying the receive sequence -/

@[simp] theorem dropFrame_txv : (dropFrame b).txv = false := rfl
@[simp] theorem dropFrame_tx : (dropFrame b).tx = TxBuf.zero := rfl
@[simp] theorem dropFrame_cmd : (dropFrame b).cmd = b.cmd := rfl
@[simp] theorem dropFrame_rxBuf : (dropFrame b).rxBuf = b.rxBuf := rfl
@[simp] theorem dropFrame_rxLen : (dropFrame b).rxLen = b.rxLen := rfl
@[simp] theorem dropFrame_rg : (dropFrame b).rg = b.rg := rfl
@[simp] theorem emptyRx_rxLen : (emptyRx b).rxLen = 0#7 := rfl
@[simp] theorem emptyRx_rxBuf : (emptyRx b).rxBuf = b.rxBuf := rfl
@[simp] theorem emptyRx_cmd : (emptyRx b).cmd = b.cmd := rfl
@[simp] theorem emptyRx_arg1 : (emptyRx b).arg1 = b.arg1 := rfl
@[simp] theorem emptyRx_arg2 : (emptyRx b).arg2 = b.arg2 := rfl
@[simp] theorem emptyRx_tx : (emptyRx b).tx = b.tx := rfl
@[simp] theorem emptyRx_txv : (emptyRx b).txv = b.txv := rfl

@[simp] theorem writeCmd_cmd : (writeCmd v b).cmd = v := rfl
@[simp] theorem writeCmd_arg1 : (writeCmd v b).arg1 = b.arg1 := rfl
@[simp] theorem writeCmd_arg2 : (writeCmd v b).arg2 = b.arg2 := rfl
@[simp] theorem writeCmd_txv : (writeCmd v b).txv = false := rfl
@[simp] theorem writeCmd_tx : (writeCmd v b).tx = TxBuf.zero := rfl
@[simp] theorem writeCmd_rxBuf : (writeCmd v b).rxBuf = b.rxBuf := rfl
@[simp] theorem writeCmd_rxLen : (writeCmd v b).rxLen = b.rxLen := rfl
@[simp] theorem writeCmd_rg : (writeCmd v b).rg = ResultGroup.zero := rfl
@[simp] theorem writeArg1_cmd : (writeArg1 v b).cmd = b.cmd := rfl
@[simp] theorem writeArg1_arg1 : (writeArg1 v b).arg1 = v := rfl
@[simp] theorem writeArg1_arg2 : (writeArg1 v b).arg2 = b.arg2 := rfl
@[simp] theorem writeArg1_txv : (writeArg1 v b).txv = false := rfl
@[simp] theorem writeArg1_tx : (writeArg1 v b).tx = TxBuf.zero := rfl
@[simp] theorem writeArg1_rxBuf : (writeArg1 v b).rxBuf = b.rxBuf := rfl
@[simp] theorem writeArg1_rxLen : (writeArg1 v b).rxLen = b.rxLen := rfl
@[simp] theorem writeArg1_rg : (writeArg1 v b).rg = ResultGroup.zero := rfl
@[simp] theorem writeArg2_cmd : (writeArg2 v b).cmd = b.cmd := rfl
@[simp] theorem writeArg2_arg1 : (writeArg2 v b).arg1 = b.arg1 := rfl
@[simp] theorem writeArg2_arg2 : (writeArg2 v b).arg2 = v := rfl
@[simp] theorem writeArg2_txv : (writeArg2 v b).txv = false := rfl
@[simp] theorem writeArg2_tx : (writeArg2 v b).tx = TxBuf.zero := rfl
@[simp] theorem writeArg2_rxBuf : (writeArg2 v b).rxBuf = b.rxBuf := rfl
@[simp] theorem writeArg2_rxLen : (writeArg2 v b).rxLen = b.rxLen := rfl
@[simp] theorem writeArg2_rg : (writeArg2 v b).rg = ResultGroup.zero := rfl

@[simp] theorem clearAll_cmd : (clearAll b).cmd = 0x00#8 := rfl
@[simp] theorem clearAll_arg1 : (clearAll b).arg1 = 0x00#8 := rfl
@[simp] theorem clearAll_arg2 : (clearAll b).arg2 = 0x00#8 := rfl
@[simp] theorem clearAll_txv : (clearAll b).txv = false := rfl
@[simp] theorem clearAll_tx : (clearAll b).tx = TxBuf.zero := rfl
@[simp] theorem clearAll_rxBuf : (clearAll b).rxBuf = b.rxBuf := rfl
@[simp] theorem clearAll_rxLen : (clearAll b).rxLen = 0#7 := rfl
@[simp] theorem clearAll_rg : (clearAll b).rg = ResultGroup.zero := rfl

/-! ## The register map -/

@[simp] theorem hostRead_cmd : hostRead b 0x01#8 = b.cmd := rfl
@[simp] theorem hostRead_arg1 : hostRead b 0x02#8 = b.arg1 := rfl
@[simp] theorem hostRead_arg2 : hostRead b 0x03#8 = b.arg2 := rfl
@[simp] theorem hostRead_rxlen : hostRead b 0x05#8 = b.rxLen.setWidth 8 := rfl
@[simp] theorem hostRead_status : hostRead b 0x06#8 = statusByte b := rfl
@[simp] theorem hostRead_result : hostRead b 0x07#8 = b.rg.result := rfl
@[simp] theorem hostRead_kindbyte : hostRead b 0x08#8 = b.rg.kindByte := rfl
@[simp] theorem hostRead_data : hostRead b 0x09#8 = b.rg.data := rfl
@[simp] theorem hostRead_tx0 : hostRead b 0x0C#8 = b.tx.tx0 := rfl
@[simp] theorem hostRead_tx1 : hostRead b 0x0D#8 = b.tx.tx1 := rfl
@[simp] theorem hostRead_tx2 : hostRead b 0x0E#8 = b.tx.tx2 := rfl
@[simp] theorem hostRead_tx3 : hostRead b 0x0F#8 = b.tx.tx3 := rfl

end Sys2Proof.Machine
end

