-- ==== Sys2Proof/Laws/Ops.lean ====
section
/-! SUPPORT. For each shared operation one lemma that says everything it can do, cited instead of unfolding it. -/

namespace Sys2Proof.Machine

/-! ## Commands and kinds -/

theorem parseCmd_cmdCode (c : Command) : parseCmd (cmdCode c) = some c := by cases c <;> decide

theorem cmdCode_of_parseCmd {b : Byte} {c : Command} (h : parseCmd b = some c) : cmdCode c = b := by
  unfold parseCmd at h
  split at h
  · next hb => cases h; exact hb.symm
  split at h
  · next hb => cases h; exact hb.symm
  split at h
  · next hb => cases h; exact hb.symm
  split at h
  · next hb => cases h; exact hb.symm
  split at h
  · next hb => cases h; exact hb.symm
  · cases h

/-- A byte names a command exactly when it is one of 0x01 to 0x05. -/
theorem parseCmd_some_iff (b : Byte) : (∃ c, parseCmd b = some c) ↔ 0x01#8 ≤ b ∧ b ≤ 0x05#8 := by
  constructor
  · rintro ⟨c, h⟩
    rw [← cmdCode_of_parseCmd h]
    cases c <;> decide
  · rintro ⟨h1, h2⟩
    have h : b = 1#8 ∨ b = 2#8 ∨ b = 3#8 ∨ b = 4#8 ∨ b = 5#8 := by bv_omega
    rcases h with rfl | rfl | rfl | rfl | rfl
    exacts [⟨_, rfl⟩, ⟨_, rfl⟩, ⟨_, rfl⟩, ⟨_, rfl⟩, ⟨_, rfl⟩]

theorem parseKind_kindCode (k : ResponseKind) : parseKind (kindCode k) = .kind k := by cases k <;> decide

/-- Everything the kind parser can do. -/
theorem parseKind_cases (b : Byte) :
    (∃ k, parseKind b = .kind k ∧ kindCode k = b ∧ b ≤ 0x03#8) ∨ (parseKind b = .unknown b ∧ ¬b ≤ 0x03#8) := by
  by_cases h0 : b = 0x00#8
  · exact .inl ⟨.ok, by subst h0; decide⟩
  by_cases h1 : b = 0x01#8
  · exact .inl ⟨.err, by subst h1; decide⟩
  by_cases h2 : b = 0x02#8
  · exact .inl ⟨.status, by subst h2; decide⟩
  by_cases h3 : b = 0x03#8
  · exact .inl ⟨.pong, by subst h3; decide⟩
  refine .inr ⟨by simp [parseKind, h0, h1, h2, h3], ?_⟩
  bv_omega

/-! ## The received sequence -/

@[simp] theorem length_rx (b : Codec) : b.rx.length = b.rxLen.toNat := by simp [Codec.rx]

theorem rx_getElem? (b : Codec) (i : Nat) :
    b.rx[i]? = if i < b.rxLen.toNat then some (readByte b.rxBuf i) else none := by
  simp only [Codec.rx, List.getElem?_map]
  split
  · next h => simp [h]
  · next h => simp [h]

/-- The received sequence is decided by RXLEN and the bytes below it. -/
theorem rx_congr {b d : Codec} (hl : b.rxLen = d.rxLen)
    (h : ∀ i, i < b.rxLen.toNat → readByte b.rxBuf i = readByte d.rxBuf i) : b.rx = d.rx := by
  unfold Codec.rx
  rw [← hl]
  exact List.map_congr_left fun i hi => h i (List.mem_range.1 hi)

@[simp] theorem rx_of_empty {b : Codec} (h : b.rxLen = 0#7) : b.rx = [] := by simp [Codec.rx, h]

/-! ## The stages -/

/-- Stage 1 by the shape of the received sequence. -/
theorem validateEnvelope_cases (s : List Byte) :
    (∃ t, s = 0xA5#8 :: t ∧ validateEnvelope s = .ok) ∨
    (validateEnvelope s = .invalidMagic ∧ envelopeGroup s = bareError 0x10#8 ∧ kindGroup s = bareError 0x10#8) := by
  rcases s with _ | ⟨m, t⟩
  · exact .inr ⟨rfl, rfl, rfl⟩
  · by_cases h : m = 0xA5#8
    · exact .inl ⟨t, by rw [h], by simp [validateEnvelope, h]⟩
    · refine .inr ⟨by simp [validateEnvelope, h], by simp [envelopeGroup, h], ?_⟩
      cases t <;> simp [kindGroup, h]

/-- VENV replaces the result group by the one its rule gives, and nothing else. -/
theorem validateOp_eq (b : Codec) : validateOp b = { b with rg := envelopeGroup b.rx } := by
  unfold validateOp stageEnvelope
  rcases validateEnvelope_cases b.rx with ⟨t, hs, hv⟩ | ⟨hv, hg, -⟩
  · rw [clearRg_rx, hv, hs]
    rfl
  · rw [clearRg_rx, hv, hg]
    rfl

/-- PKIND replaces the result group by the one its rule gives, and nothing else. -/
theorem parseKindOp_eq (b : Codec) : parseKindOp b = { b with rg := kindGroup b.rx } := by
  unfold parseKindOp stageEnvelope
  rcases validateEnvelope_cases b.rx with ⟨t, hs, hv⟩ | ⟨hv, -, hg⟩
  · rw [clearRg_rx, hv]
    simp only [stageKind, setEnvOk_rx, clearRg_rx, hs]
    rcases t with _ | ⟨k, t⟩
    · rfl
    · rcases parseKind_cases k with ⟨kd, hk, -, hle⟩ | ⟨hk, hle⟩
      · simp [hk, kindGroup, hle, pass, setKindOk, setKindByte, setEnvOk, clearRg, ResultGroup.zero, passCode]
      · simp [hk, kindGroup, hle, raise, setKindByte, setEnvOk, clearRg, ResultGroup.zero, errorCode]
  · rw [clearRg_rx, hv, hg]
    rfl

/-- DEC with no request: the refusal, and nothing else. -/
theorem interpretOp_noRequest {b : Codec} (h : b.txv = false) :
    interpretOp b = some { b with rg := bareError 0x21#8 } := by
  simp [interpretOp, h, raise, clearRg, bareError, ResultGroup.zero, errorCode]

/-- The codes a stage-3 shape error or success shows are the kind byte's own. -/
theorem commitOutcome_eq (b : Codec) (c : Command) (k : ResponseKind) (t : List Byte) :
    commitOutcome (stage3 c k (0xA5#8 :: kindCode k :: t))
      (setKindOk (setKindByte (kindCode k) (setEnvOk (clearRg b)))) =
    { b with rg := outcomeGroup (0xA5#8 :: kindCode k :: t) (stage3 c k (0xA5#8 :: kindCode k :: t)) } := by
  cases c <;> cases k <;>
    simp only [stage3, statusAnswer, commitOutcome, outcomeGroup, pass, raise, setData, setKindOk, setKindByte,
      setEnvOk, clearRg, ResultGroup.zero, passCode, errorCode, kindCode,
      List.getD_cons_succ, List.getD_cons_zero, List.length_cons] <;>
    try simp
  rcases t with _ | ⟨x, _ | ⟨y, t⟩⟩ <;> simp [lenOk, minLen, byte3]

/-- DEC with a request replaces the result group by the image of `interpret` under the table of R163, and nothing
else. -/
theorem interpretOp_request {b : Codec} {c : Command} (h : b.txv = true) (hc : parseCmd b.cmd = some c) :
    interpretOp b = some { b with rg := outcomeGroup b.rx (interpret c b.rx) } := by
  simp only [interpretOp, clearRg_txv, h, clearRg_cmd, hc, if_true, stageEnvelope, clearRg_rx]
  rcases validateEnvelope_cases b.rx with ⟨t, hs, hv⟩ | ⟨hv, -, -⟩
  · simp only [interpret, stageKind, setEnvOk_rx, clearRg_rx, setKindOk_rx, setKindByte_rx, hv]
    rcases t with _ | ⟨k, t⟩
    · simp [hs, outcomeGroup, raise, setEnvOk, clearRg, ResultGroup.zero, errorCode, h]
    · simp only [hs, List.getElem?_cons_succ, List.getElem?_cons_zero]
      rcases parseKind_cases k with ⟨kd, hk, rfl, -⟩ | ⟨hk, -⟩
      · simp only [hk, commitOutcome_eq, h]
      · simp [hk, outcomeGroup, raise, setKindByte, setEnvOk, clearRg, ResultGroup.zero, errorCode, h]
  · simp [hv, interpret, outcomeGroup, bareError, raise, clearRg, ResultGroup.zero, errorCode, h]

/-- DEC at a state with a request and no command, which no run reaches. -/
theorem interpretOp_noCommand {b : Codec} (h : b.txv = true) (hc : parseCmd b.cmd = none) : interpretOp b = none := by
  unfold interpretOp
  simp [h, hc]

/-- Everything DEC can do: where it answers, only the result group is another. -/
theorem interpretOp_cases {b d : Codec} (h : interpretOp b = some d) :
    (b.txv = false ∧ d = { b with rg := bareError 0x21#8 }) ∨
    (b.txv = true ∧ ∃ c, parseCmd b.cmd = some c ∧ d = { b with rg := outcomeGroup b.rx (interpret c b.rx) }) := by
  cases ht : b.txv with
  | false =>
    rw [interpretOp_noRequest ht] at h
    exact .inl ⟨rfl, ht ▸ (Option.some.inj h).symm⟩
  | true =>
    cases hc : parseCmd b.cmd with
    | none => rw [interpretOp_noCommand ht hc] at h; cases h
    | some c =>
      rw [interpretOp_request ht hc] at h
      exact .inr ⟨rfl, c, rfl, ht ▸ (Option.some.inj h).symm⟩

/-! ## RXB -/

/-- Everything RXB can do. -/
theorem pushByte_cases (v : Byte) (b : Codec) :
    (b.rxLen.toNat < 64 ∧ pushByte v b = { b with
      rxBuf := writeByte b.rxBuf b.rxLen.toNat v, rxLen := b.rxLen + 1#7, rg := ResultGroup.zero }) ∨
    (64 ≤ b.rxLen.toNat ∧ pushByte v b = b) := by
  by_cases h : b.rxLen.toNat < 64
  · exact .inl ⟨h, by simp [pushByte, h, clearRg]⟩
  · exact .inr ⟨by omega, by simp [pushByte, h]⟩

/-- RXLEN + 1 does not wrap below RX_CAP (20_memory.md R63). -/
theorem rxLen_succ {b : Codec} (h : b.rxLen.toNat < 64) : (b.rxLen + 1#7).toNat = b.rxLen.toNat + 1 := by
  bv_omega

/-- RXB keeps the operands and the frame. -/
theorem pushByte_keeps (v : Byte) (b : Codec) : OperandsKept b (pushByte v b) ∧ FrameKept b (pushByte v b) := by
  rcases pushByte_cases v b with ⟨-, h⟩ | ⟨-, h⟩ <;> rw [h] <;> exact ⟨⟨rfl, rfl, rfl⟩, rfl, rfl⟩

/-- Pushing a sequence is pushing its first byte and then the rest. -/
@[simp] theorem pushBytes_cons (v : Byte) (vs : List Byte) (b : Codec) :
    pushBytes (v :: vs) b = pushBytes vs (pushByte v b) := rfl

@[simp] theorem pushBytes_nil (b : Codec) : pushBytes [] b = b := rfl

/-! ## ENC and REQ -/

/-- ENC with a command in CMD. -/
theorem encodeFrame_of_command {b : Codec} {c : Command} (h : parseCmd b.cmd = some c) :
    encodeFrame b = { b with
      tx := encodeRequest c b.arg1 b.arg2, txv := true, rxLen := 0#7, rg := ResultGroup.zero } := by
  simp [encodeFrame, h, clearRg, emptyRx]

/-- ENC with no command in CMD. -/
theorem encodeFrame_refused {b : Codec} (h : parseCmd b.cmd = none) :
    encodeFrame b = { b with tx := TxBuf.zero, txv := false, rxLen := 0#7, rg := bareError 0x20#8 } := by
  simp [encodeFrame, h, clearRg, emptyRx, raise, dropFrame, bareError, ResultGroup.zero, errorCode]

/-- REQ leaves the frame of its command and arguments, whatever the state before it. -/
theorem requestSequence_eq (c : Command) (a1 a2 : Byte) (b : Codec) :
    requestSequence c a1 a2 b = { b with
      cmd := cmdCode c, arg1 := a1, arg2 := a2, tx := encodeRequest c a1 a2, txv := true, rxLen := 0#7,
      rg := ResultGroup.zero } := by
  have h : parseCmd (writeArg2 a2 (writeArg1 a1 (writeCmd (cmdCode c) b))).cmd = some c := parseCmd_cmdCode c
  rw [requestSequence, encodeFrame_of_command h]
  rfl

/-! ## exec on a completing operation -/

/-- An operation that needs the command issued answers next only with the state it computed. -/
theorem completesIf_next {s t : State} {f : Codec → Option Codec} (h : completesIf s f = .next t) :
    ∃ d, f s.block = some d ∧ t = s.withBlock d := by
  unfold completesIf at h
  split at h
  · next d hd => exact ⟨d, hd, by cases h; rfl⟩
  · cases h

end Sys2Proof.Machine
end

