-- ==== Sys2Proof/Laws/Exec.lean ====
section
/-! SUPPORT. What each instruction's meaning is, as one equation; and the inversion of a next state, for every
instruction at once and for a step. Later proofs cite these and unfold neither exec nor step. -/

namespace Sys2Proof.Machine

variable (s : State)

/-! ## One equation per instruction -/

theorem exec_enc : exec .enc s = completes s encodeFrame := rfl
theorem exec_venv : exec .venv s = completes s validateOp := rfl
theorem exec_pkind : exec .pkind s = completes s parseKindOp := rfl
theorem exec_dec : exec .dec s = completesIf s interpretOp := rfl
theorem exec_clr : exec .clr s = completes s clearAll := rfl
theorem exec_oprsv (d : Byte) : exec (.oprsv d) s = completes s badOp := rfl
theorem exec_setcmd (v : Byte) : exec (.setcmd v) s = completes s (writeCmd v) := rfl
theorem exec_seta1 (v : Byte) : exec (.seta1 v) s = completes s (writeArg1 v) := rfl
theorem exec_seta2 (v : Byte) : exec (.seta2 v) s = completes s (writeArg2 v) := rfl
theorem exec_rxb (v : Byte) : exec (.rxb v) s = completes s (pushByte v) := rfl
theorem exec_wrign (off v : Byte) : exec (.wrign off v) s = completes s id := rfl
theorem exec_rd (off : Byte) : exec (.rd off) s = .next { s with lastRead := some (hostRead s.block off) } := rfl

variable (a b : Byte)

theorem exec_reqPing : exec (.reqPing a b) s = completes s (requestSequence .ping a b) := rfl
theorem exec_reqGetstatus : exec (.reqGetstatus a b) s = completes s (requestSequence .getStatus a b) := rfl
theorem exec_reqSetrelay : exec (.reqSetrelay a b) s = completes s (requestSequence .setRelay a b) := rfl
theorem exec_reqTogglerelay : exec (.reqTogglerelay a b) s = completes s (requestSequence .toggleRelay a b) := rfl
theorem exec_reqSetall : exec (.reqSetall a b) s = completes s (requestSequence .setAll a b) := rfl

variable (k : Byte) (p : List Byte)

theorem exec_rspOk : exec (.rspOk p) s = completesIf s (responseSequence (0xA5#8 :: 0x00#8 :: p)) := rfl
theorem exec_rspErr : exec (.rspErr p) s = completesIf s (responseSequence (0xA5#8 :: 0x01#8 :: p)) := rfl
theorem exec_rspStatus : exec (.rspStatus p) s = completesIf s (responseSequence (0xA5#8 :: 0x02#8 :: p)) := rfl
theorem exec_rspPong : exec (.rspPong p) s = completesIf s (responseSequence (0xA5#8 :: 0x03#8 :: p)) := rfl
theorem exec_rspUnknown : exec (.rspUnknown k p) s = completesIf s (responseSequence (0xA5#8 :: k :: p)) := rfl
theorem exec_rspBadmagic : exec (.rspBadmagic p) s = completesIf s (responseSequence p) := rfl

/-! ## The two ways to complete -/

theorem completes_eq (f : Codec → Codec) : completes s f = .next (s.withBlock (f s.block)) := rfl

/-- An operation that always completes answers next only with the state it computed. -/
theorem completes_next {s t : State} {f : Codec → Codec} (h : completes s f = .next t) :
    t = s.withBlock (f s.block) :=
  (Host.Outcome.next.inj h).symm

/-- Everything exec can do where it answers next: the block takes the effect of one shared operation, or it is a read
and only the host's side changes. -/
theorem exec_next_cases {i : Instr} {s t : State} (h : exec i s = .next t) :
    (∃ off, i = .rd off ∧ t = { s with lastRead := some (hostRead s.block off) }) ∨
    ∃ d, t = s.withBlock d ∧
      ((i = .enc ∧ d = encodeFrame s.block) ∨ (i = .venv ∧ d = validateOp s.block) ∨
        (i = .pkind ∧ d = parseKindOp s.block) ∨ (i = .dec ∧ interpretOp s.block = some d) ∨
        (i = .clr ∧ d = clearAll s.block) ∨ (∃ v, i = .oprsv v ∧ d = badOp s.block) ∨
        (∃ v, i = .setcmd v ∧ d = writeCmd v s.block) ∨ (∃ v, i = .seta1 v ∧ d = writeArg1 v s.block) ∨
        (∃ v, i = .seta2 v ∧ d = writeArg2 v s.block) ∨ (∃ v, i = .rxb v ∧ d = pushByte v s.block) ∨
        (∃ off v, i = .wrign off v ∧ d = s.block) ∨
        (encodesRequest i = true ∧ i ≠ .enc ∧ ∃ c a b, d = requestSequence c a b s.block) ∨
        (pushesBytes i = true ∧ encodesRequest i = false ∧ touchesFrame i = false ∧
          ∃ f, responseSequence f s.block = some d)) := by
  cases i with
  | rd off => exact .inl ⟨off, rfl, (Host.Outcome.next.inj h).symm⟩
  | dec =>
    rw [exec_dec] at h
    obtain ⟨d, hd, ht⟩ := completesIf_next h
    exact .inr ⟨d, ht, .inr (.inr (.inr (.inl ⟨rfl, hd⟩)))⟩
  | enc => rw [exec_enc] at h; exact .inr ⟨_, completes_next h, by simp⟩
  | venv => rw [exec_venv] at h; exact .inr ⟨_, completes_next h, by simp⟩
  | pkind => rw [exec_pkind] at h; exact .inr ⟨_, completes_next h, by simp⟩
  | clr => rw [exec_clr] at h; exact .inr ⟨_, completes_next h, by simp⟩
  | oprsv d => rw [exec_oprsv] at h; exact .inr ⟨_, completes_next h, by simp⟩
  | setcmd v => rw [exec_setcmd] at h; exact .inr ⟨_, completes_next h, by simp⟩
  | seta1 v => rw [exec_seta1] at h; exact .inr ⟨_, completes_next h, by simp⟩
  | seta2 v => rw [exec_seta2] at h; exact .inr ⟨_, completes_next h, by simp⟩
  | rxb v => rw [exec_rxb] at h; exact .inr ⟨_, completes_next h, by simp⟩
  | wrign off v => rw [exec_wrign] at h; exact .inr ⟨_, completes_next h, by simp⟩
  | reqPing a b =>
    rw [exec_reqPing] at h
    exact .inr ⟨_, completes_next h, by simp [encodesRequest]; exact ⟨_, _, _, rfl⟩⟩
  | reqGetstatus a b =>
    rw [exec_reqGetstatus] at h
    exact .inr ⟨_, completes_next h, by simp [encodesRequest]; exact ⟨_, _, _, rfl⟩⟩
  | reqSetrelay a b =>
    rw [exec_reqSetrelay] at h
    exact .inr ⟨_, completes_next h, by simp [encodesRequest]; exact ⟨_, _, _, rfl⟩⟩
  | reqTogglerelay a b =>
    rw [exec_reqTogglerelay] at h
    exact .inr ⟨_, completes_next h, by simp [encodesRequest]; exact ⟨_, _, _, rfl⟩⟩
  | reqSetall a b =>
    rw [exec_reqSetall] at h
    exact .inr ⟨_, completes_next h, by simp [encodesRequest]; exact ⟨_, _, _, rfl⟩⟩
  | rspOk p =>
    rw [exec_rspOk] at h
    obtain ⟨d, hd, ht⟩ := completesIf_next h
    exact .inr ⟨d, ht, by simp [pushesBytes, encodesRequest, touchesFrame]; exact ⟨_, hd⟩⟩
  | rspErr p =>
    rw [exec_rspErr] at h
    obtain ⟨d, hd, ht⟩ := completesIf_next h
    exact .inr ⟨d, ht, by simp [pushesBytes, encodesRequest, touchesFrame]; exact ⟨_, hd⟩⟩
  | rspStatus p =>
    rw [exec_rspStatus] at h
    obtain ⟨d, hd, ht⟩ := completesIf_next h
    exact .inr ⟨d, ht, by simp [pushesBytes, encodesRequest, touchesFrame]; exact ⟨_, hd⟩⟩
  | rspPong p =>
    rw [exec_rspPong] at h
    obtain ⟨d, hd, ht⟩ := completesIf_next h
    exact .inr ⟨d, ht, by simp [pushesBytes, encodesRequest, touchesFrame]; exact ⟨_, hd⟩⟩
  | rspUnknown k p =>
    rw [exec_rspUnknown] at h
    obtain ⟨d, hd, ht⟩ := completesIf_next h
    exact .inr ⟨d, ht, by simp [pushesBytes, encodesRequest, touchesFrame]; exact ⟨_, hd⟩⟩
  | rspBadmagic f =>
    rw [exec_rspBadmagic] at h
    obtain ⟨d, hd, ht⟩ := completesIf_next h
    exact .inr ⟨d, ht, by simp [pushesBytes, encodesRequest, touchesFrame]; exact ⟨_, hd⟩⟩

/-- The short response runs as the delivery of its one byte does. -/
theorem deliverShort_eq : deliverShort s = exec (.rspBadmagic [0xA5#8]) s := rfl

/-- Everything a step can do where it answers next: it waits, or one instruction runs with the next access issued. -/
theorem step_next_cases {s t : State} (h : step s = .next t) :
    (fetch s = .idle ∧ t = s) ∨ ∃ i, exec i (issued s) = .next t := by
  unfold step at h
  split at h
  · next hf => exact .inl ⟨hf, (Host.Outcome.next.inj h).symm⟩
  · exact .inr ⟨_, h⟩
  · exact .inr ⟨_, deliverShort_eq (issued s) ▸ h⟩
  · cases h

@[simp] theorem issued_block : (issued s).block = s.block := rfl
@[simp] theorem issued_lastRead : (issued s).lastRead = s.lastRead := rfl
@[simp] theorem issued_pending : (issued s).pending = s.pending.tail := rfl

end Sys2Proof.Machine
end

