-- ==== Sys2Proof/Laws/PerInstr.lean ====
section
/-! SUPPORT. What is said of every instruction, one lemma per constructor: the shape of its encoded form. -/

namespace Sys2Proof.Laws.EncodedForm

/-- The bytes of an instruction of the table have the length and the first byte that its form gives them
(30_encoding.md R70, R71, R73, R84): two for a host write, one for a host read, four beginning with 0xA5 for a
request; a response begins with 0xA5 and has its kind byte, or its envelope is bad. -/
def Statement (i : Instr) : Prop :=
  i.wf = true →
    match encode i with
    | (.hw16, bytes) => bytes.length = 2
    | (.hrd, bytes) => bytes.length = 1
    | (.req, bytes) => bytes.length = 4 ∧ bytes.head? = some 0xA5#8
    | (.rsp, bytes) => (2 ≤ bytes.length ∧ bytes.head? = some 0xA5#8) ∨ badEnvelope bytes = true

theorem enc : Statement .enc := fun _ => rfl
theorem venv : Statement .venv := fun _ => rfl
theorem pkind : Statement .pkind := fun _ => rfl
theorem dec : Statement .dec := fun _ => rfl
theorem clr : Statement .clr := fun _ => rfl
theorem oprsv (d : Byte) : Statement (.oprsv d) := fun _ => rfl
theorem setcmd (v : Byte) : Statement (.setcmd v) := fun _ => rfl
theorem seta1 (v : Byte) : Statement (.seta1 v) := fun _ => rfl
theorem seta2 (v : Byte) : Statement (.seta2 v) := fun _ => rfl
theorem rxb (v : Byte) : Statement (.rxb v) := fun _ => rfl
theorem wrign (off v : Byte) : Statement (.wrign off v) := fun _ => rfl
theorem rd (off : Byte) : Statement (.rd off) := fun _ => rfl
theorem reqPing (a b : Byte) : Statement (.reqPing a b) := fun _ => ⟨rfl, rfl⟩
theorem reqGetstatus (a b : Byte) : Statement (.reqGetstatus a b) := fun _ => ⟨rfl, rfl⟩
theorem reqSetrelay (a b : Byte) : Statement (.reqSetrelay a b) := fun _ => ⟨rfl, rfl⟩
theorem reqTogglerelay (a b : Byte) : Statement (.reqTogglerelay a b) := fun _ => ⟨rfl, rfl⟩
theorem reqSetall (a b : Byte) : Statement (.reqSetall a b) := fun _ => ⟨rfl, rfl⟩
theorem rspOk (p : List Byte) : Statement (.rspOk p) := fun _ => .inl ⟨by simp, rfl⟩
theorem rspErr (p : List Byte) : Statement (.rspErr p) := fun _ => .inl ⟨by simp, rfl⟩
theorem rspStatus (p : List Byte) : Statement (.rspStatus p) := fun _ => .inl ⟨by simp, rfl⟩
theorem rspPong (p : List Byte) : Statement (.rspPong p) := fun _ => .inl ⟨by simp, rfl⟩
theorem rspUnknown (k : Byte) (p : List Byte) : Statement (.rspUnknown k p) := fun _ => .inl ⟨by simp, rfl⟩
theorem rspBadmagic (f : List Byte) : Statement (.rspBadmagic f) := fun h => .inr h

end Sys2Proof.Laws.EncodedForm
end

