-- ==== Sys2Proof/Tests/Slice0.lean ====
section
/-! SUPPORT. The model's own tests: the checks of WellFormed, every row's word written out from its encoding, single
steps with results taken from spec/95_test_vectors.md (the vector is named at each), and for every obligation with
hypotheses a state and operands that meet them. -/

namespace Sys2Proof.Tests

open Sys2Proof.Machine

/-! ## Builders of small states -/

/-- The cells of a byte sequence stored from an index on. -/
def cellsFrom : Nat → List Byte → Memory
  | _, [] => []
  | i, v :: vs => if v = rxBlank then cellsFrom (i + 1) vs else (i, v) :: cellsFrom (i + 1) vs

/-- The block with a byte sequence received. -/
def received (bytes : List Byte) (b : Codec) : Codec :=
  { b with rxBuf := cellsFrom 0 bytes, rxLen := BitVec.ofNat 7 bytes.length }

/-- The block after reset with a request encoded. -/
def requested (c a1 a2 : Byte) : Codec :=
  { Codec.reset with cmd := c, arg1 := a1, arg2 := a2, tx := ⟨0xA5#8, c, a1, a2⟩, txv := true }

/-- A state of the block alone. -/
def stateOf (b : Codec) : State := { State.reset with block := b }

/-- The state in which one access is still to be issued. -/
def issuing (f : Format) (bytes : List Byte) (s : State) : State := { s with pending := [⟨.theHost, f, bytes⟩] }

def nextOf : Host.Outcome State Fault Refusal → Option State
  | .next s => some s
  | .fault _ => none
  | .refused _ => none

def refusalOf : Host.Outcome State Fault Refusal → Option Refusal
  | .next _ => none
  | .fault _ => none
  | .refused r => some r

/-- The block after an instruction. -/
def blockAfter (i : Instr) (b : Codec) : Option Codec := (nextOf (exec i (stateOf b))).map State.block

/-- The result group after an instruction. -/
def groupAfter (i : Instr) (b : Codec) : Option ResultGroup := (blockAfter i b).map Codec.rg

/-! ## Each check of WellFormed refuses an ill-formed term, and takes the ends of its range -/

theorem test_wf_oprsv : (Instr.oprsv 0x01#8).wf = false ∧ (Instr.oprsv 0x05#8).wf = false ∧
    (Instr.oprsv 0x00#8).wf = true ∧ (Instr.oprsv 0x06#8).wf = true := by decide
theorem test_wf_wrign : (Instr.wrign 0x04#8 0x00#8).wf = false ∧ (Instr.wrign 0x00#8 0x01#8).wf = false ∧
    (Instr.wrign 0x05#8 0x00#8).wf = true ∧ (Instr.wrign 0xFF#8 0x05#8).wf = true := by decide
theorem test_wf_rspUnknown : (Instr.rspUnknown 0x03#8 []).wf = false ∧ (Instr.rspUnknown 0x00#8 []).wf = false ∧
    (Instr.rspUnknown 0x04#8 []).wf = true ∧ (Instr.rspUnknown 0xFF#8 []).wf = true := by decide
theorem test_wf_rspBadmagic : (Instr.rspBadmagic [0xA5#8]).wf = false ∧ (Instr.rspBadmagic [0xA5#8, 0x00#8]).wf = false ∧
    (Instr.rspBadmagic []).wf = true ∧ (Instr.rspBadmagic [0xA4#8]).wf = true := by decide

/-! ## Every row's word, written out from its pattern (30_encoding.md R71 to R77) -/

theorem test_word_enc : decode .hw16 [0b00000000#8, 0b00000001#8] = .ok .enc := rfl
theorem test_word_venv : decode .hw16 [0b00000000#8, 0b00000010#8] = .ok .venv := rfl
theorem test_word_pkind : decode .hw16 [0b00000000#8, 0b00000011#8] = .ok .pkind := rfl
theorem test_word_dec : decode .hw16 [0b00000000#8, 0b00000100#8] = .ok .dec := rfl
theorem test_word_clr : decode .hw16 [0b00000000#8, 0b00000101#8] = .ok .clr := rfl
theorem test_word_oprsv : decode .hw16 [0b00000000#8, 0b10000001#8] = .ok (.oprsv 0x81#8) := rfl
theorem test_word_setcmd : decode .hw16 [0b00000001#8, 0b00000101#8] = .ok (.setcmd 0x05#8) := rfl
theorem test_word_seta1 : decode .hw16 [0b00000010#8, 0b11111111#8] = .ok (.seta1 0xFF#8) := rfl
theorem test_word_seta2 : decode .hw16 [0b00000011#8, 0b00000001#8] = .ok (.seta2 0x01#8) := rfl
theorem test_word_rxb : decode .hw16 [0b00000100#8, 0b10100101#8] = .ok (.rxb 0xA5#8) := rfl
theorem test_word_wrign : decode .hw16 [0b00000101#8, 0b00000001#8] = .ok (.wrign 0x05#8 0x01#8) := rfl
theorem test_word_rd : decode .hrd [0b00000110#8] = .ok (.rd 0x06#8) := rfl
theorem test_word_reqPing : decode .req [0b10100101#8, 0b00000001#8, 0x12#8, 0x34#8] = .ok (.reqPing 0x12#8 0x34#8) := rfl
theorem test_word_reqGetstatus :
    decode .req [0b10100101#8, 0b00000010#8, 0x12#8, 0x34#8] = .ok (.reqGetstatus 0x12#8 0x34#8) := rfl
theorem test_word_reqSetrelay :
    decode .req [0b10100101#8, 0b00000011#8, 0x12#8, 0x34#8] = .ok (.reqSetrelay 0x12#8 0x34#8) := rfl
theorem test_word_reqTogglerelay :
    decode .req [0b10100101#8, 0b00000100#8, 0x12#8, 0x34#8] = .ok (.reqTogglerelay 0x12#8 0x34#8) := rfl
theorem test_word_reqSetall :
    decode .req [0b10100101#8, 0b00000101#8, 0x12#8, 0x34#8] = .ok (.reqSetall 0x12#8 0x34#8) := rfl
theorem test_word_rspOk : decode .rsp [0b10100101#8, 0b00000000#8, 0x07#8] = .ok (.rspOk [0x07#8]) := rfl
theorem test_word_rspErr : decode .rsp [0b10100101#8, 0b00000001#8, 0x07#8] = .ok (.rspErr [0x07#8]) := rfl
theorem test_word_rspStatus : decode .rsp [0b10100101#8, 0b00000010#8, 0x07#8] = .ok (.rspStatus [0x07#8]) := rfl
theorem test_word_rspPong : decode .rsp [0b10100101#8, 0b00000011#8, 0x07#8] = .ok (.rspPong [0x07#8]) := rfl
theorem test_word_rspUnknown : decode .rsp [0b10100101#8, 0b00000100#8, 0x07#8] = .ok (.rspUnknown 0x04#8 [0x07#8]) := rfl
theorem test_word_rspBadmagic : decode .rsp [0b01011010#8, 0b00000011#8] = .ok (.rspBadmagic [0x5A#8, 0x03#8]) := rfl
theorem test_word_rspBadmagic_empty : decode .rsp [] = .ok (.rspBadmagic []) := rfl
theorem test_word_rsp_short : decode .rsp [0b10100101#8] = .error .shortResponse := rfl
theorem test_word_req_bad : decode .req [0xA5#8, 0x06#8, 0#8, 0#8] = .error .notARequestFrame := rfl

/-- The opcode table's numbers (30_encoding.md R75, R81). -/
theorem test_table_words : decodeTableWord 16 0x0004 = some .dec ∧ decodeTableWord 16 0x0203 = some (.seta1 0x03#8) ∧
    decodeTableWord 16 0x0500 = some (.wrign 0x05#8 0x00#8) ∧ decodeTableWord 8 0x0C = some (.rd 0x0C#8) ∧
    decodeTableWord 32 0xA501007F = some (.reqPing 0x00#8 0x7F#8) ∧ decodeTableWord 16 0xA500 = some (.rspOk []) ∧
    decodeTableWord 16 0xA5FF = some (.rspUnknown 0xFF#8 []) ∧ decodeTableWord 32 0x5A010000 = none := by decide

/-- The step after withFetchWord runs the word placed, whatever is pending behind it. -/
theorem test_withFetchWord : nextOf (step (State.reset.withFetchWord 32 0xA5030301)) =
    nextOf (exec (.reqSetrelay 0x03#8 0x01#8) State.reset) := by decide

/-! ## Single steps; the vector of spec/95_test_vectors.md is named -/

/-- V-SET-4: no command code, stored all the same. V-SET-5: the frame and the outcome go, RXLEN stays. -/
theorem test_setcmd : (blockAfter (.setcmd 0x77#8) Codec.reset).map Codec.cmd = some 0x77#8 ∧
    blockAfter (.setcmd 0x01#8) (received [0xA5#8, 0x03#8] (requested 0x01#8 0#8 0#8)) =
      some (received [0xA5#8, 0x03#8] { Codec.reset with cmd := 0x01#8 }) := by decide
/-- V-SET-2. -/
theorem test_seta1 : blockAfter (.seta1 0xFF#8) Codec.reset = some { Codec.reset with arg1 := 0xFF#8 } := by decide
/-- V-SET-7. -/
theorem test_seta2 : blockAfter (.seta2 0x09#8) (requested 0x01#8 0#8 0#8) =
    some { Codec.reset with cmd := 0x01#8, arg2 := 0x09#8 } := by decide
/-- V-ENC-3. -/
theorem test_enc : blockAfter .enc { Codec.reset with cmd := 0x03#8, arg1 := 0x03#8, arg2 := 0x01#8 } =
    some (requested 0x03#8 0x03#8 0x01#8) := by decide
/-- V-ENC-12. -/
theorem test_enc_refused : (blockAfter .enc (received [0xA5#8, 0x03#8] Codec.reset)).map
    (fun b => (b.rxLen, b.txv, b.rg.result, statusByte b)) = some (0#7, false, 0x20#8, 0x10#8) := by decide
/-- V-RX-2. -/
theorem test_rxb : blockAfter (.rxb 0x03#8) (received [0xA5#8] Codec.reset) =
    some (received [0xA5#8, 0x03#8] Codec.reset) := by decide
/-- V-RX-8: a dropped byte leaves the outcome standing. -/
theorem test_rxb_dropped : blockAfter (.rxb 0x55#8) { requested 0x01#8 0#8 0#8 with rxLen := 64#7 } =
    some { requested 0x01#8 0#8 0#8 with rxLen := 64#7 } := by decide
/-- V-VE-2. -/
theorem test_venv : groupAfter .venv (received [0xA5#8] Codec.reset) =
    some ⟨0x03#8, 0#8, 0#8, true, false, false, false⟩ := by decide
/-- V-VE-7. -/
theorem test_venv_bad : groupAfter .venv (received [0x5A#8, 0x02#8, 0x00#8, 0x05#8] Codec.reset) =
    some ⟨0x10#8, 0#8, 0#8, false, false, false, true⟩ := by decide
/-- V-PK-13. -/
theorem test_pkind : groupAfter .pkind (received [0xA5#8, 0x02#8, 0x00#8, 0x05#8] Codec.reset) =
    some ⟨0x04#8, 0x02#8, 0#8, true, true, false, false⟩ := by decide
/-- V-PK-11. -/
theorem test_pkind_unknown : groupAfter .pkind (received [0xA5#8, 0xA5#8] Codec.reset) =
    some ⟨0x11#8, 0xA5#8, 0#8, true, false, false, true⟩ := by decide
/-- V-DEC-G1. -/
theorem test_dec_value : groupAfter .dec (received [0xA5#8, 0x02#8, 0x00#8, 0x05#8] (requested 0x02#8 0#8 0#8)) =
    some ⟨0x02#8, 0x02#8, 0x05#8, true, true, true, false⟩ := by decide
/-- V-DEC-S4: the byte at index 2 is not the code. -/
theorem test_dec_sentinel : groupAfter .dec (received [0xA5#8, 0x01#8, 0x07#8] (requested 0x03#8 0x03#8 0x01#8)) =
    some ⟨0x13#8, 0x01#8, 0xFF#8, true, true, true, true⟩ := by decide
/-- V-CLR-1, and 44_control.md R180: RXBUF is not erased. -/
theorem test_clr : blockAfter .clr (received [0xA5#8, 0x01#8] (requested 0x03#8 3#8 1#8)) =
    some { Codec.reset with rxBuf := [(0, 0xA5#8), (1, 0x01#8)] } := by decide
/-- V-OPR-3. -/
theorem test_oprsv : (blockAfter (.oprsv 0x7F#8) (requested 0x03#8 3#8 1#8)).map
    (fun b => (b.tx, b.rg.result, statusByte b)) = some (⟨0xA5#8, 0x03#8, 3#8, 1#8⟩, 0x22#8, 0x11#8) := by decide
/-- V-WI-3. -/
theorem test_wrign : blockAfter (.wrign 0x0C#8 0x00#8) (requested 0x03#8 3#8 1#8) = some (requested 0x03#8 3#8 1#8) := by
  decide
/-- V-RD: STATUS with every flag set, and RXLEN. -/
theorem test_rd : (nextOf (exec (.rd 0x06#8) (stateOf { received [0xA5#8, 0x01#8, 0#8, 7#8] (requested 0x03#8 3#8 1#8) with
      rg := ⟨0x13#8, 0x01#8, 0x07#8, true, true, true, true⟩ }))).bind State.lastRead = some 0x1F#8 ∧
    hostRead { Codec.reset with rxLen := 64#7 } 0x05#8 = 0x40#8 := by decide
/-- 40_encode.md R108 to R112, the example of each. -/
theorem test_reqPing : (blockAfter (.reqPing 0#8 0#8) Codec.reset).map Codec.tx = some ⟨0xA5#8, 0x01#8, 0#8, 0#8⟩ := by
  decide
theorem test_reqGetstatus : (blockAfter (.reqGetstatus 0#8 0#8) Codec.reset).map Codec.tx =
    some ⟨0xA5#8, 0x02#8, 0#8, 0#8⟩ := by decide
theorem test_reqSetrelay : (blockAfter (.reqSetrelay 3#8 1#8) Codec.reset).map Codec.tx =
    some ⟨0xA5#8, 0x03#8, 3#8, 1#8⟩ := by decide
theorem test_reqTogglerelay : (blockAfter (.reqTogglerelay 2#8 0#8) Codec.reset).map Codec.tx =
    some ⟨0xA5#8, 0x04#8, 2#8, 0#8⟩ := by decide
theorem test_reqSetall : (blockAfter (.reqSetall 0xFF#8 0#8) Codec.reset).map Codec.tx =
    some ⟨0xA5#8, 0x05#8, 0xFF#8, 0#8⟩ := by decide
/-- Rows X5, X8, X11, X12, X13 and X3 of the matrix, each under a command that its kind depends on. -/
theorem test_rspOk : groupAfter (.rspOk []) (requested 0x05#8 0xFF#8 0#8) =
    some ⟨0x01#8, 0x00#8, 0#8, true, true, false, false⟩ := by decide
theorem test_rspErr : groupAfter (.rspErr [0#8, 7#8]) (requested 0x04#8 2#8 0#8) =
    some ⟨0x13#8, 0x01#8, 0x07#8, true, true, true, true⟩ := by decide
/-- The SetAll asymmetry (90_conflicts.md C4). -/
theorem test_rspErr_setAll : groupAfter (.rspErr [0#8, 7#8]) (requested 0x05#8 2#8 0#8) =
    some ⟨0x12#8, 0x01#8, 0#8, true, true, false, true⟩ := by decide
theorem test_rspStatus : groupAfter (.rspStatus [0#8, 5#8]) (requested 0x02#8 0#8 0#8) =
    some ⟨0x02#8, 0x02#8, 0x05#8, true, true, true, false⟩ := by decide
theorem test_rspPong : groupAfter (.rspPong []) (requested 0x01#8 0#8 0#8) =
    some ⟨0x01#8, 0x03#8, 0#8, true, true, false, false⟩ := by decide
theorem test_rspUnknown : groupAfter (.rspUnknown 0x04#8 []) (requested 0x02#8 0#8 0#8) =
    some ⟨0x11#8, 0x04#8, 0#8, true, false, false, true⟩ := by decide
/-- V-DEC-P5 (90_conflicts.md C1). -/
theorem test_rspBadmagic : groupAfter (.rspBadmagic [0x5A#8, 0x03#8]) (requested 0x01#8 0#8 0#8) =
    some ⟨0x10#8, 0#8, 0#8, false, false, false, true⟩ := by decide
/-- V-DEC-P7: the one-byte response, which is no row. -/
theorem test_short : (nextOf (step (issuing .rsp [0xA5#8] (stateOf (requested 0x01#8 0#8 0#8))))).map
    (fun t => (t.block.rg.result, statusByte t.block)) = some (0x12#8, 0x13#8) := by decide
theorem test_second_host : refusalOf (step { State.reset with pending := [⟨.secondHost, .hrd, [0x06#8]⟩] }) =
    some .secondHost := by decide
/-- A stored 0x00 lists no cell, and it takes the place of what stood there. -/
theorem test_write_zero : writeByte [(0, 0xA5#8), (2, 0x07#8)] 2 0x00#8 = [(0, 0xA5#8)] ∧
    writeByte [(2, 0x07#8)] 1 0x09#8 = [(1, 0x09#8), (2, 0x07#8)] := by decide

/-! ## Witnesses: a state and operands that meet each statement's hypotheses -/

theorem wit_DecodeOfEncode : (Instr.oprsv 0x00#8).wf = true ∧ (Instr.wrign 0x05#8 0#8).wf = true ∧
    (Instr.rspUnknown 0xFF#8 [0#8]).wf = true ∧ (Instr.rspBadmagic []).wf = true ∧ Instr.enc.wf = true := by decide
theorem wit_EncodeOfDecode : decode .hw16 [0xFF#8, 0x05#8] = .ok (.wrign 0xFF#8 0x05#8) ∧
    decode .rsp [0xA4#8] = .ok (.rspBadmagic [0xA4#8]) ∧ decode .hrd [0xFF#8] = .ok (.rd 0xFF#8) ∧
    decode .req [0xA5#8, 0x05#8, 0#8, 0#8] = .ok (.reqSetall 0#8 0#8) := ⟨rfl, rfl, rfl, rfl⟩
theorem wit_CodeRoundTrips : parseCmd 0x05#8 = some .setAll ∧ parseKind 0x03#8 = .kind .pong ∧ 0x05#8 < 0x06#8 ∧
    parseCmd 0x06#8 = none := by decide
theorem wit_RequestFrameShape : encodeRequest .ping 0xFF#8 0#8 = encodeRequest .ping 0xFF#8 0#8 := rfl
theorem wit_Envelope : (∃ t, [0xA5#8] = 0xA5#8 :: t) ∧ (¬∃ t, ([] : List Byte) = 0xA5#8 :: t) ∧
    ¬∃ t, [0xA4#8, 0xA5#8] = 0xA5#8 :: t := ⟨⟨[], rfl⟩, by simp, by simp⟩
theorem wit_KindParser : 0x03#8 < 0x04#8 ∧ 0x03#8 < 0xFF#8 ∧ parseKind 0x00#8 = .kind .ok ∧
    parseKind 0x04#8 = .unknown 0x04#8 := by decide
theorem wit_InterpretDecisionTable : 0xA4#8 ≠ 0xA5#8 ∧ 0x03#8 < 0x04#8 ∧ ([0x09#8] : List Byte).length < 2 := by decide
theorem wit_OtherBytesAreIgnored :
    let s : List Byte := [0xA5#8, 0x01#8, 0x00#8, 0x07#8, 0x09#8]
    let t : List Byte := [0xA5#8, 0x01#8, 0xFF#8, 0x07#8]
    min s.length 4 = min t.length 4 ∧ s[0]? = t[0]? ∧ s[1]? = t[1]? ∧ s[3]? = t[3]? := by decide
theorem wit_CutOffBytes : 4 ≤ 4 ∧ ([0xA5#8, 0x02#8, 0#8, 5#8, 9#8] : List Byte).take 4 = [0xA5#8, 0x02#8, 0#8, 5#8] := by
  decide
theorem wit_LengthValidator : (Command.getStatus, ResponseKind.status) ∈ [(Command.ping, ResponseKind.pong),
    (.getStatus, .status), (.setRelay, .ok), (.toggleRelay, .ok), (.setAll, .ok)] ∧
    (Command.setAll, ResponseKind.ok) ∈ [(Command.ping, ResponseKind.pong), (.getStatus, .status), (.setRelay, .ok),
      (.toggleRelay, .ok), (.setAll, .ok)] ∧ (Command.ping, ResponseKind.err) ≠ (.getStatus, .status) := by decide
/-- One block for each row of the table of 43_interpret.md R159. -/
theorem wit_Messages : (received [] { Codec.reset with rg := bareError 0x10#8 }).rg.result = 0x10#8 ∧
    ({ Codec.reset with rg := ⟨0x11#8, 0xFF#8, 0#8, true, false, false, true⟩ } : Codec).rg.result = 0x11#8 ∧
    (∀ c ∈ [0x01#8, 0x02#8, 0x03#8, 0x04#8, 0x05#8],
      ({ requested c 0#8 0#8 with rg := ⟨0x12#8, 0#8, 0#8, true, false, false, true⟩ } : Codec).rg.result = 0x12#8 ∧
      (requested c 0#8 0#8).cmd = c) ∧
    ({ requested 0x04#8 0#8 0#8 with rg := ⟨0x13#8, 1#8, 7#8, true, true, true, true⟩ } : Codec).rg.result = 0x13#8 ∧
    (requested 0x04#8 0#8 0#8).cmd = 0x04#8 := by decide
/-- Both ends of the command codes, and the bytes beside them. -/
theorem wit_Enc : (0x01#8 ≤ (requested 0x01#8 0#8 0#8).cmd ∧ (requested 0x01#8 0#8 0#8).cmd ≤ 0x05#8) ∧
    (0x01#8 ≤ (requested 0x05#8 0#8 0#8).cmd ∧ (requested 0x05#8 0#8 0#8).cmd ≤ 0x05#8) ∧
    ¬(0x01#8 ≤ Codec.reset.cmd ∧ Codec.reset.cmd ≤ 0x05#8) ∧
    ¬(0x01#8 ≤ (requested 0x06#8 0#8 0#8).cmd ∧ (requested 0x06#8 0#8 0#8).cmd ≤ 0x05#8) := by decide
theorem wit_Rxb : Codec.reset.rxLen.toNat < 64 ∧ ({ Codec.reset with rxLen := 63#7 } : Codec).rxLen.toNat < 64 ∧
    64 ≤ ({ Codec.reset with rxLen := 64#7 } : Codec).rxLen.toNat := by decide
theorem wit_PushedBytes : ({ Codec.reset with rxLen := 64#7 } : Codec).rxLen.toNat ≤ 64 ∧
    (received [0xA5#8, 0x03#8] Codec.reset).rxLen.toNat ≤ 64 ∧ 1 < (received [0xA5#8, 0x03#8] Codec.reset).rxLen.toNat ∧
    min ((received [0xA5#8, 0x03#8] Codec.reset).rxLen.toNat + [0x07#8].length) 64 ≤ 3 := by decide
theorem wit_Venv : (∃ p, (received [0xA5#8] Codec.reset).rx = 0xA5#8 :: p) ∧ ¬∃ p, Codec.reset.rx = 0xA5#8 :: p :=
  ⟨⟨[], rfl⟩, by simp [Codec.rx, Codec.reset]⟩
/-- The five shapes, with both ends of the known and of the unknown kind bytes. -/
theorem wit_Pkind : (received [0xA5#8] Codec.reset).rx = [0xA5#8] ∧
    (received [0xA5#8, 0x04#8] Codec.reset).rx = [0xA5#8, 0x04#8] ∧
    (received [0xA5#8, 0xFF#8] Codec.reset).rx = [0xA5#8, 0xFF#8] ∧
    (received [0xA5#8, 0x00#8] Codec.reset).rx = [0xA5#8, 0x00#8] ∧
    (received [0xA5#8, 0x03#8] Codec.reset).rx = [0xA5#8, 0x03#8] ∧
    0x03#8 < 0x04#8 ∧ (0x03#8 : Byte) ≤ 0x03#8 := by decide
theorem wit_DecRefines : Codec.reset.txv = false ∧ (requested 0x05#8 0#8 0#8).txv = true ∧
    (requested 0x05#8 0#8 0#8).cmd = cmdCode .setAll := by decide
theorem wit_EnvelopeErrorComesFirst :
    (¬∃ p, (received [0xA4#8, 0x03#8] (requested 0x01#8 0#8 0#8)).rx = 0xA5#8 :: p) ∧
    (received [0xA4#8, 0x03#8] (requested 0x01#8 0#8 0#8)).txv = true ∧
    (received [0xA4#8, 0x03#8] (requested 0x01#8 0#8 0#8)).cmd = cmdCode .ping := by
  refine ⟨?_, rfl, rfl⟩
  rintro ⟨p, h⟩
  have : ([0xA4#8, 0x03#8] : List Byte) = 0xA5#8 :: p := h
  simp at this
theorem wit_DecodeFamily : Instr.dec ∈ [Instr.venv, .pkind, .dec] ∧
    (nextOf (exec .dec (stateOf (requested 0x01#8 0#8 0#8)))).isSome = true ∧
    (nextOf (exec .venv State.reset)).isSome = true ∧ (nextOf (exec .pkind State.reset)).isSome = true := by decide
theorem wit_LateBytes :
    let b := received [0xA5#8, 0x02#8, 0x00#8, 0x05#8] (requested 0x02#8 0#8 0#8)
    4 ≤ b.rxLen.toNat ∧ b.rxLen.toNat ≤ 64 ∧ (nextOf (exec .dec (stateOf b))).isSome = true ∧
    4 ≤ ({ b with rxLen := 64#7 } : Codec).rxLen.toNat ∧ ({ b with rxLen := 64#7 } : Codec).rxLen.toNat ≤ 64 := by decide
theorem wit_ResponseRows : (requested 0x01#8 0#8 0#8).txv = true ∧ (requested 0x01#8 0#8 0#8).cmd = cmdCode .ping ∧
    (requested 0x01#8 0#8 0#8).rxLen = 0#7 ∧ min (([0#8] : List Byte).length + 2) 64 ≤ 3 ∧ 0x03#8 < 0x04#8 ∧
    0x03#8 < 0xFF#8 ∧ badEnvelope [] = true ∧ badEnvelope [0xA4#8, 0xA5#8] = true := by decide
theorem wit_Clr : (nextOf (exec .clr (stateOf (received [0xA5#8] (requested 0x01#8 0#8 0#8))))).isSome = true ∧
    (nextOf (execAll [.rxb 0x03#8, .pkind] (stateOf { Codec.reset with rxBuf := [(0, 0xA5#8)] }))).isSome = true := by
  decide
theorem wit_ReservedOp : reservedOp 0x00#8 = true ∧ reservedOp 0x06#8 = true ∧ reservedOp 0xFF#8 = true := by decide
theorem wit_IgnoredWrites : (0x05#8 : Byte) ≤ 0x05#8 ∧ (0x05#8 : Byte) ≤ 0xFF#8 := by decide
theorem wit_StepRuns : (issuing .hw16 [0x01#8, 0x05#8] State.reset).pending = [⟨.theHost, .hw16, [0x01#8, 0x05#8]⟩] ∧
    decode .hw16 [0x01#8, 0x05#8] = .ok (.setcmd 0x05#8) := ⟨rfl, rfl⟩
theorem wit_Idle : State.reset.pending = [] ∧
    (issuing .rsp [0xA5#8] (stateOf (requested 0x03#8 0#8 0#8))).pending = [⟨.theHost, .rsp, [0xA5#8]⟩] ∧
    (requested 0x03#8 0#8 0#8).txv = true ∧ (requested 0x03#8 0#8 0#8).cmd = cmdCode .setRelay ∧
    (requested 0x03#8 0#8 0#8).rxLen = 0#7 := by decide
theorem wit_Run : ∀ i ∈ [Instr.setcmd 0x01#8, .rspPong [], .oprsv 0x06#8], i.wf = true := by decide
theorem wit_ExchangeEnds : (nextOf (exec .dec State.reset)).isSome = true := by decide
theorem wit_OperandWrite : Instr.seta1 0x00#8 ∈ [Instr.setcmd 0x00#8, .seta1 0x00#8, .seta2 0x00#8] ∧
    (∀ i ∈ [Instr.rxb 0xA5#8, .venv], encodesRequest i = false) ∧
    (nextOf (execAll (Instr.seta1 0x00#8 :: [.rxb 0xA5#8, .venv] ++ [.dec]) (stateOf (requested 0x01#8 0#8 0#8)))).isSome
      = true := by decide
theorem wit_Frames : (nextOf (exec .venv (stateOf (requested 0x01#8 0#8 0#8)))).isSome = true ∧
    touchesFrame .venv = false ∧ pushesBytes .venv = false ∧ (requested 0x01#8 0#8 0#8).txv = true ∧
    Codec.reset.rxLen.toNat ≤ 64 ∧ (nextOf (exec (.rxb 0xA5#8) State.reset)).isSome = true := by decide
/-- A state that no run reaches: the statement holds there as well. -/
theorem wit_NoOutcome : blockAfter (.wrign 0x05#8 0#8) { Codec.reset with rg := ⟨0x01#8, 0#8, 0#8, true, true, false, false⟩ }
      = some { Codec.reset with rg := ⟨0x01#8, 0#8, 0#8, true, true, false, false⟩ } ∧
    Codec.reset.txv = false ∧ (0x01#8 : Byte) ∈ [0x01#8, 0x02#8, 0x13#8] := by decide

/-- A block with a request, four bytes received and the device's code shown meets every invariant. -/
theorem wit_BlockInv : BlockInv { received [0xA5#8, 0x01#8, 0x00#8, 0x07#8] (requested 0x03#8 3#8 1#8) with
    rg := ⟨0x13#8, 0x01#8, 0x07#8, true, true, true, true⟩ } where
  frameMatches := fun _ => ⟨by decide, rfl⟩
  noFrame := nofun
  lengthBound := by decide
  failIff := by decide
  noneIsZero := by decide
  quietIsNone := nofun
  kindParsed := by decide
  envelopeHeld := by decide
  dataIff := by decide
  needsRequest := fun _ => rfl
  knownResult := by decide

/-- And it steps, by a host write that is the next pending access. -/
theorem wit_StepFromInv :
    let s := issuing .hw16 [0x00#8, 0x04#8] (stateOf { received [0xA5#8, 0x01#8, 0x00#8, 0x07#8] (requested 0x03#8 3#8 1#8)
      with rg := ⟨0x13#8, 0x01#8, 0x07#8, true, true, true, true⟩ })
    BlockInv s.block ∧ s.pending = [⟨.theHost, .hw16, [0x00#8, 0x04#8]⟩] ∧ (nextOf (step s)).isSome = true :=
  ⟨wit_BlockInv, rfl, by decide⟩
theorem wit_FreshGroup : FreshGroup (received [0xA5#8] { Codec.reset with
      rg := ⟨0x03#8, 0#8, 0#8, true, false, false, false⟩ }) ∧
    (nextOf (step (issuing .hw16 [0x04#8, 0x03#8] (stateOf (received [0xA5#8] { Codec.reset with
      rg := ⟨0x03#8, 0#8, 0#8, true, false, false, false⟩ }))))).isSome = true :=
  ⟨.inr (.inl rfl), by decide⟩
theorem wit_BufferInv : BufferInv { Codec.reset with rxBuf := [(0, 0xA5#8), (63, 0x07#8)], rxLen := 64#7 } ∧
    (nextOf (step (issuing .hw16 [0x04#8, 0x00#8] (stateOf
      { Codec.reset with rxBuf := [(0, 0xA5#8), (63, 0x07#8)], rxLen := 64#7 })))).isSome = true :=
  ⟨⟨by decide, by decide, by decide⟩, by decide⟩
theorem wit_Reachable : (nextOf (Host.Core.run Sys2Proof.core 2
    { State.reset with pending := [⟨.theHost, .hw16, [0x01#8, 0x02#8]⟩, ⟨.theHost, .hw16, [0x00#8, 0x01#8]⟩] })).isSome
      = true := by decide
/-- Two states that differ in a stale byte alone; one pair steps, one pair is refused. -/
theorem wit_StaleBytes : SameToTheHost (issuing .hw16 [0x00#8, 0x03#8] (stateOf (received [0xA5#8] Codec.reset)))
      (issuing .hw16 [0x00#8, 0x03#8] (stateOf { received [0xA5#8] Codec.reset with rxBuf := [(0, 0xA5#8), (1, 0x03#8)] })) ∧
    (nextOf (step (issuing .hw16 [0x00#8, 0x03#8] (stateOf (received [0xA5#8] Codec.reset))))).isSome = true ∧
    refusalOf (step (issuing .hw16 [0x00#8] (stateOf (received [0xA5#8] Codec.reset)))) = some .truncatedAccess :=
  ⟨⟨⟨rfl, rfl, rfl, rfl, rfl, rfl, rfl, by decide⟩, rfl, rfl⟩, by decide, by decide⟩

theorem wit_HostInterface :
    (issuing .hw16 [0xFF#8, 0xFF#8] State.reset).pending = [⟨.theHost, .hw16, [0xFF#8, 0xFF#8]⟩] ∧
    (issuing .hrd [0xFF#8] State.reset).pending = [⟨.theHost, .hrd, [0xFF#8]⟩] ∧
    (issuing .hw16 [0x01#8, 0x02#8, 0x03#8] State.reset).pending = [⟨.theHost, .hw16, [0x01#8, 0x02#8, 0x03#8]⟩] ∧
    (issuing .hrd [0x0C#8, 0x0D#8] State.reset).pending = [⟨.theHost, .hrd, [0x0C#8, 0x0D#8]⟩] ∧
    ({ State.reset with pending := [⟨.secondHost, .req, []⟩] } : State).pending = [⟨.secondHost, .req, []⟩] := by decide
theorem wit_Stops : (issuing .hw16 [] State.reset).pending = [⟨.theHost, .hw16, []⟩] ∧
    (issuing .hw16 [0x01#8] State.reset).pending = [⟨.theHost, .hw16, [0x01#8]⟩] ∧
    (issuing .hrd [] State.reset).pending = [⟨.theHost, .hrd, []⟩] ∧
    (issuing .req [0xA5#8, 0x06#8, 0#8, 0#8] State.reset).pending = [⟨.theHost, .req, [0xA5#8, 0x06#8, 0#8, 0#8]⟩] ∧
    (¬∃ c a1 a2, ([0xA5#8, 0x06#8, 0#8, 0#8] : List Byte) = [0xA5#8, cmdCode c, a1, a2]) ∧
    (requested 0x06#8 0#8 0#8).txv = true ∧ parseCmd (requested 0x06#8 0#8 0#8).cmd = none := by
  refine ⟨rfl, rfl, rfl, rfl, ?_, rfl, rfl⟩
  rintro ⟨c, a1, a2, h⟩
  cases c <;> simp [cmdCode] at h
theorem wit_RdReturnsTheRegister : hostRead State.reset.block 0x06#8 = 0x00#8 ∧ (0x10#8 : Byte) ≤ 0xFF#8 := by decide

end Sys2Proof.Tests
end

section
/-! PROOFS. Every instruction's effect on the block is made of the shared operations, one after another; a step runs
one instruction, waits, or stops. An invariant is then proved once per shared operation. -/

namespace Sys2Proof.Machine

/-! ## The effects of instructions -/

/-- The effects on the block that always complete: the shared operations, and one after another. -/
inductive Effect : (Codec → Codec) → Prop where
  | keep : Effect id
  | writeCmd (v : Byte) : Effect (writeCmd v)
  | writeArg1 (v : Byte) : Effect (writeArg1 v)
  | writeArg2 (v : Byte) : Effect (writeArg2 v)
  | encode : Effect encodeFrame
  | push (v : Byte) : Effect (pushByte v)
  | validate : Effect validateOp
  | parseKind : Effect parseKindOp
  | clear : Effect clearAll
  | badOp : Effect badOp
  | comp {f g : Codec → Codec} : Effect f → Effect g → Effect (g ∘ f)

theorem effect_requestSequence (c : Command) (a1 a2 : Byte) : Effect (requestSequence c a1 a2) :=
  (((Effect.writeCmd (cmdCode c)).comp (.writeArg1 a1)).comp (.writeArg2 a2)).comp .encode

theorem effect_pushBytes (frame : List Byte) : Effect (pushBytes frame) := by
  induction frame with
  | nil => exact .keep
  | cons v vs ih => exact (Effect.push v).comp ih

/-- The instruction's operation always completes with an effect on the block. -/
def Completes (i : Instr) : Prop := ∃ f, Effect f ∧ ∀ s, exec i s = completes s f

/-- The instruction's operation ends in DEC, after an effect on the block. -/
def EndsInDec (i : Instr) : Prop := ∃ f, Effect f ∧ ∀ s, exec i s = completesIf s (interpretOp ∘ f)

theorem endsInDec_of_response {i : Instr} (frame : List Byte)
    (h : ∀ s, exec i s = completesIf s (responseSequence frame)) : EndsInDec i :=
  ⟨_, effect_pushBytes frame, h⟩

/-- Every instruction is a read, or completes with an effect, or ends in DEC. -/
theorem exec_forms (i : Instr) : (∃ off, i = .rd off) ∨ Completes i ∨ EndsInDec i := by
  cases i with
  | rd off => exact .inl ⟨off, rfl⟩
  | enc => exact .inr (.inl ⟨_, .encode, exec_enc⟩)
  | venv => exact .inr (.inl ⟨_, .validate, exec_venv⟩)
  | pkind => exact .inr (.inl ⟨_, .parseKind, exec_pkind⟩)
  | clr => exact .inr (.inl ⟨_, .clear, exec_clr⟩)
  | oprsv d => exact .inr (.inl ⟨_, .badOp, (exec_oprsv · d)⟩)
  | setcmd v => exact .inr (.inl ⟨_, .writeCmd v, (exec_setcmd · v)⟩)
  | seta1 v => exact .inr (.inl ⟨_, .writeArg1 v, (exec_seta1 · v)⟩)
  | seta2 v => exact .inr (.inl ⟨_, .writeArg2 v, (exec_seta2 · v)⟩)
  | rxb v => exact .inr (.inl ⟨_, .push v, (exec_rxb · v)⟩)
  | wrign off v => exact .inr (.inl ⟨_, .keep, (exec_wrign · off v)⟩)
  | reqPing a b => exact .inr (.inl ⟨_, effect_requestSequence _ a b, (exec_reqPing · a b)⟩)
  | reqGetstatus a b => exact .inr (.inl ⟨_, effect_requestSequence _ a b, (exec_reqGetstatus · a b)⟩)
  | reqSetrelay a b => exact .inr (.inl ⟨_, effect_requestSequence _ a b, (exec_reqSetrelay · a b)⟩)
  | reqTogglerelay a b => exact .inr (.inl ⟨_, effect_requestSequence _ a b, (exec_reqTogglerelay · a b)⟩)
  | reqSetall a b => exact .inr (.inl ⟨_, effect_requestSequence _ a b, (exec_reqSetall · a b)⟩)
  | dec => exact .inr (.inr ⟨_, .keep, exec_dec⟩)
  | rspOk p => exact .inr (.inr (endsInDec_of_response _ (exec_rspOk · p)))
  | rspErr p => exact .inr (.inr (endsInDec_of_response _ (exec_rspErr · p)))
  | rspStatus p => exact .inr (.inr (endsInDec_of_response _ (exec_rspStatus · p)))
  | rspPong p => exact .inr (.inr (endsInDec_of_response _ (exec_rspPong · p)))
  | rspUnknown k p => exact .inr (.inr (endsInDec_of_response _ (exec_rspUnknown · k p)))
  | rspBadmagic f => exact .inr (.inr (endsInDec_of_response _ (exec_rspBadmagic · f)))

/-- An operation that needs the command is refused only as noCommand, and only where it computed no block. -/
theorem completesIf_refused {s : State} {f : Codec → Option Codec} {r : Refusal} (h : completesIf s f = .refused r) :
    r = .noCommand ∧ f s.block = none := by
  unfold completesIf at h
  split at h
  · cases h
  · next hf => exact ⟨(Host.Outcome.refused.inj h).symm, hf⟩

/-! ## What a step does, by what is pending -/

/-- A stop before any instruction runs is none for want of a command. -/
theorem takeAccess_ne_noCommand (a : Access) : takeAccess a ≠ .stop .noCommand := by
  unfold takeAccess
  split
  · simp
  · split
    · simp
    · next r _ => cases r <;> simp [ofReject]

theorem fetch_ne_noCommand (s : State) : fetch s ≠ .stop .noCommand := by
  unfold fetch
  split
  · simp
  · exact takeAccess_ne_noCommand _

/-- What is fetched depends on the pending accesses alone. -/
theorem fetch_congr {s s' : State} (h : s.pending = s'.pending) : fetch s = fetch s' := by
  unfold fetch
  rw [h]

/-- What the pending accesses make of a step, whatever the block holds: it waits, one instruction runs, or it is
refused, and then not for want of a command. -/
theorem step_forms (s : State) :
    (∀ s', s.pending = s'.pending → step s' = .next s') ∨
    (∃ i, ∀ s', s.pending = s'.pending → step s' = exec i (issued s')) ∨
    ∃ r, r ≠ .noCommand ∧ ∀ s', s.pending = s'.pending → step s' = .refused r := by
  cases hf : fetch s with
  | idle => exact .inl fun s' hp => by simp [step, ← fetch_congr hp, hf]
  | run i => exact .inr (.inl ⟨i, fun s' hp => by simp [step, ← fetch_congr hp, hf]⟩)
  | short => exact .inr (.inl ⟨.rspBadmagic [0xA5#8], fun s' hp => by
      simp [step, ← fetch_congr hp, hf, deliverShort_eq]⟩)
  | stop r =>
    refine .inr (.inr ⟨r, ?_, fun s' hp => by simp [step, ← fetch_congr hp, hf]⟩)
    rintro rfl
    exact fetch_ne_noCommand s hf

/-! ## Invariants of the block -/

/-- The effects and DEC keep a property of the block. -/
structure KeptByOps (P : Codec → Prop) : Prop where
  effect : ∀ {f}, Effect f → ∀ {b}, P b → P (f b)
  dec : ∀ {b d}, interpretOp b = some d → P b → P d

theorem KeptByOps.of_exec {P : Codec → Prop} (hP : KeptByOps P) {i : Instr} {s t : State} (h : exec i s = .next t)
    (hs : P s.block) : P t.block := by
  rcases exec_forms i with ⟨off, rfl⟩ | ⟨f, hf, he⟩ | ⟨f, hf, he⟩
  · rw [exec_rd] at h
    cases h
    exact hs
  · rw [he] at h
    rw [completes_next h]
    exact hP.effect hf hs
  · rw [he] at h
    obtain ⟨d, hd, rfl⟩ := completesIf_next h
    exact hP.dec hd (hP.effect hf hs)

/-- What the effects and DEC keep, every step keeps. -/
theorem KeptByOps.of_step {P : Codec → Prop} (hP : KeptByOps P) {s t : State} (h : step s = .next t)
    (hs : P s.block) : P t.block := by
  rcases step_next_cases h with ⟨-, rfl⟩ | ⟨i, hi⟩
  · exact hs
  · exact hP.of_exec hi hs

/-- A run of one step and more that answers next begins with a step that does. -/
theorem run_succ_next {M : Host.Core} {n : Nat} {s t : M.State} (h : M.run (n + 1) s = .next t) :
    ∃ s', M.step s = .next s' ∧ M.run n s' = .next t := by
  unfold Host.Core.run at h
  split at h
  · next s' hs' => exact ⟨s', hs', h⟩
  · cases h
  · cases h

/-- What every step keeps holds along every run. -/
theorem run_keeps {M : Host.Core} {P : M.State → Prop} (hstep : ∀ {s t}, M.step s = .next t → P s → P t) (n : Nat)
    {s t : M.State} (h : M.run n s = .next t) (hs : P s) : P t := by
  induction n generalizing s with
  | zero => cases h; exact hs
  | succ n ih =>
    obtain ⟨s', hs', ht⟩ := run_succ_next h
    exact ih ht (hstep hs' hs)

end Sys2Proof.Machine
end

section
/-! PROOFS. Freshness of the result group (10_state.md R36, R37): every shared operation leaves a fresh group or
changes nothing at all. -/

namespace Sys2Proof.Machine

/-- OPRSV records its refusal and nothing else. -/
theorem badOp_eq (b : Codec) : badOp b = { b with rg := bareError 0x22#8 } := rfl

theorem freshGroup_of_zero {b : Codec} (h : b.rg = ResultGroup.zero) : FreshGroup b := .inl h

theorem freshGroup_encodeFrame (b : Codec) : FreshGroup (encodeFrame b) := by
  cases hc : parseCmd b.cmd with
  | some c =>
    rw [encodeFrame_of_command hc]
    exact freshGroup_of_zero rfl
  | none =>
    rw [encodeFrame_refused hc]
    exact .inr (.inr (.inr (.inr (.inr (.inl ⟨rfl, hc, rfl, rfl⟩)))))

theorem freshGroup_validateOp (b : Codec) : FreshGroup (validateOp b) := by
  rw [validateOp_eq]
  exact .inr (.inl rfl)

theorem freshGroup_parseKindOp (b : Codec) : FreshGroup (parseKindOp b) := by
  rw [parseKindOp_eq]
  exact .inr (.inr (.inl rfl))

theorem freshGroup_badOp (b : Codec) : FreshGroup (badOp b) := by
  rw [badOp_eq]
  exact .inr (.inr (.inr (.inr (.inr (.inr rfl)))))

theorem freshGroup_interpretOp {b d : Codec} (h : interpretOp b = some d) : FreshGroup d := by
  rcases interpretOp_cases h with ⟨ht, rfl⟩ | ⟨ht, c, hc, rfl⟩
  · exact .inr (.inr (.inr (.inr (.inl ⟨ht, rfl⟩))))
  · exact .inr (.inr (.inr (.inl ⟨c, ht, hc, rfl⟩)))

/-- An effect leaves a fresh group whatever stood there before, or it changes nothing: WRIGN, and RXB at RX_CAP. -/
theorem Effect.fresh_or_same {f : Codec → Codec} (hf : Effect f) (b : Codec) : FreshGroup (f b) ∨ f b = b := by
  induction hf generalizing b with
  | keep => exact .inr rfl
  | writeCmd v => exact .inl (freshGroup_of_zero (writeCmd_rg b v))
  | writeArg1 v => exact .inl (freshGroup_of_zero (writeArg1_rg b v))
  | writeArg2 v => exact .inl (freshGroup_of_zero (writeArg2_rg b v))
  | encode => exact .inl (freshGroup_encodeFrame b)
  | push v =>
    rcases pushByte_cases v b with ⟨-, h⟩ | ⟨-, h⟩
    · exact .inl (freshGroup_of_zero (by rw [h]))
    · exact .inr h
  | validate => exact .inl (freshGroup_validateOp b)
  | parseKind => exact .inl (freshGroup_parseKindOp b)
  | clear => exact .inl (freshGroup_of_zero (clearAll_rg b))
  | badOp => exact .inl (freshGroup_badOp b)
  | @comp f g _ _ ihf ihg =>
    rcases ihg (f b) with h | h
    · exact .inl h
    · rw [Function.comp_apply, h]
      exact ihf b

theorem freshGroup_keptByOps : KeptByOps FreshGroup where
  effect {_} hf {b} hb := (hf.fresh_or_same b).elim id fun h => h.symm ▸ hb
  dec h _ := freshGroup_interpretOp h

/-- Settles O55: every shared operation leaves a fresh group or changes nothing. -/
theorem stepKeepsTheResultFresh : Obligations.StepKeepsTheResultFresh :=
  fun _ _ hs h => freshGroup_keptByOps.of_step h hs

end Sys2Proof.Machine
end

section
/-! PROOFS. The invariants I1 to I10 of 10_state.md R35: I1 to I3 speak of the frame and RXLEN and are kept by each
operation; I4 to I10 speak of the result group, and every fresh group meets them. -/

namespace Sys2Proof.Machine

/-! ## I1 to I3 -/

/-- I1, I2 and I3: the invariants in which the result group has no part. -/
structure RegisterInv (b : Codec) : Prop where
  frameMatches : b.txv = true →
    (0x01#8 ≤ b.cmd ∧ b.cmd ≤ 0x05#8) ∧ b.tx = ⟨0xA5#8, b.cmd, b.arg1, b.arg2⟩
  noFrame : b.txv = false → b.tx = ⟨0#8, 0#8, 0#8, 0#8⟩
  lengthBound : b.rxLen.toNat ≤ 64

/-- With no frame, only the bound of RXLEN is left to show. -/
theorem registerInv_of_noFrame {b : Codec} (ht : b.txv = false) (hx : b.tx = TxBuf.zero) (hl : b.rxLen.toNat ≤ 64) :
    RegisterInv b where
  frameMatches h := absurd (ht.symm.trans h) Bool.false_ne_true
  noFrame _ := hx
  lengthBound := hl

/-- I1 to I3 do not see the result group. -/
theorem RegisterInv.withGroup {b : Codec} (h : RegisterInv b) (g : ResultGroup) : RegisterInv { b with rg := g } :=
  ⟨h.frameMatches, h.noFrame, h.lengthBound⟩

theorem registerInv_encodeFrame (b : Codec) : RegisterInv (encodeFrame b) := by
  cases hc : parseCmd b.cmd with
  | some c =>
    rw [encodeFrame_of_command hc]
    exact {
      frameMatches := fun _ => ⟨(parseCmd_some_iff b.cmd).1 ⟨c, hc⟩, by
        simp [encodeRequest, cmdCode_of_parseCmd hc]⟩
      noFrame := nofun
      lengthBound := by simp }
  | none =>
    rw [encodeFrame_refused hc]
    exact registerInv_of_noFrame rfl rfl (by simp)

theorem registerInv_pushByte {b : Codec} (h : RegisterInv b) (v : Byte) : RegisterInv (pushByte v b) := by
  rcases pushByte_cases v b with ⟨hlt, heq⟩ | ⟨-, heq⟩
  · rw [heq]
    refine ⟨h.frameMatches, h.noFrame, ?_⟩
    show (b.rxLen + 1#7).toNat ≤ 64
    rw [rxLen_succ hlt]
    omega
  · rwa [heq]

theorem Effect.keeps_registerInv {f : Codec → Codec} (hf : Effect f) {b : Codec} (h : RegisterInv b) :
    RegisterInv (f b) := by
  induction hf generalizing b with
  | keep => exact h
  | writeCmd v => exact registerInv_of_noFrame rfl rfl h.lengthBound
  | writeArg1 v => exact registerInv_of_noFrame rfl rfl h.lengthBound
  | writeArg2 v => exact registerInv_of_noFrame rfl rfl h.lengthBound
  | encode => exact registerInv_encodeFrame b
  | push v => exact registerInv_pushByte h v
  | validate => rw [validateOp_eq]; exact h.withGroup _
  | parseKind => rw [parseKindOp_eq]; exact h.withGroup _
  | clear => exact registerInv_of_noFrame rfl rfl (by simp)
  | badOp => rw [badOp_eq]; exact h.withGroup _
  | comp _ _ ihf ihg => exact ihg (ihf h)

/-! ## I4 to I10 -/

/-- I4 to I10 of a result group, for the received sequence and TXV it stands beside. -/
structure GroupInv (s : List Byte) (txv : Bool) (g : ResultGroup) : Prop where
  failIff : g.fail = true ↔ 0x10#8 ≤ g.result
  noneIsZero : g.result = 0x00#8 → g = ⟨0#8, 0#8, 0#8, false, false, false, false⟩
  quietIsNone : g.envOk = false → g.fail = false → g.result = 0x00#8
  kindParsed : g.kindOk = true → g.envOk = true ∧ g.kindByte ≤ 0x03#8 ∧ s[1]? = some g.kindByte
  envelopeHeld : g.envOk = true → s[0]? = some 0xA5#8
  dataIff : g.dataV = true ↔ g.result = 0x02#8 ∨ g.result = 0x13#8
  needsRequest : (g.result = 0x01#8 ∨ g.result = 0x02#8 ∨ g.result = 0x13#8 ∨
    (g.result = 0x12#8 ∧ g.kindOk = true)) → txv = true
  knownResult : g.result ∈
    ([0x00#8, 0x01#8, 0x02#8, 0x03#8, 0x04#8, 0x10#8, 0x11#8, 0x12#8, 0x13#8, 0x20#8, 0x21#8, 0x22#8] : List Byte)

theorem rx_getElem?_eq_some {b : Codec} {i : Nat} {v : Byte} (h : b.rx[i]? = some v) :
    i < b.rxLen.toNat ∧ readByte b.rxBuf i = v := by
  rw [rx_getElem?] at h
  split at h
  · next hi => exact ⟨hi, Option.some.inj h⟩
  · cases h

/-- I1 to I3 and I4 to I10 make the whole. -/
theorem blockInv_of_parts {b : Codec} (hr : RegisterInv b) (hg : GroupInv b.rx b.txv b.rg) : BlockInv b where
  frameMatches := hr.frameMatches
  noFrame := hr.noFrame
  lengthBound := hr.lengthBound
  failIff := hg.failIff
  noneIsZero := hg.noneIsZero
  quietIsNone := hg.quietIsNone
  kindParsed hk :=
    have ⟨he, hle, hs⟩ := hg.kindParsed hk
    have ⟨hlt, hv⟩ := rx_getElem?_eq_some hs
    ⟨he, hle, hlt, hv.symm⟩
  envelopeHeld he := rx_getElem?_eq_some (hg.envelopeHeld he)
  dataIff := hg.dataIff
  needsRequest := hg.needsRequest
  knownResult := hg.knownResult

theorem BlockInv.registerInv {b : Codec} (h : BlockInv b) : RegisterInv b :=
  ⟨h.frameMatches, h.noFrame, h.lengthBound⟩

section Groups

variable {s : List Byte} {txv : Bool}

theorem groupInv_zero : GroupInv s txv ⟨0#8, 0#8, 0#8, false, false, false, false⟩ := by
  constructor <;> simp

/-- The errors that no stage touched: E_ENVELOPE and the three refusals. -/
theorem groupInv_bareError {code : Byte} (hc : code ∈ ([0x10#8, 0x20#8, 0x21#8, 0x22#8] : List Byte)) :
    GroupInv s txv (bareError code) := by
  simp only [List.mem_cons, List.not_mem_nil, or_false] at hc
  rcases hc with rfl | rfl | rfl | rfl <;> constructor <;> simp [bareError]

/-- The groups that stage 1 passed and stage 2 did not: ENV_PASS, E_DECODE and the E_SHAPE of a missing kind byte. -/
theorem groupInv_envelopeOnly {r k : Byte} {fail : Bool} (h0 : s[0]? = some 0xA5#8)
    (hr : (r, fail) ∈ [(0x03#8, false), (0x11#8, true), (0x12#8, true)]) :
    GroupInv s txv ⟨r, k, 0#8, true, false, false, fail⟩ := by
  simp only [List.mem_cons, List.not_mem_nil, or_false, Prod.mk.injEq] at hr
  rcases hr with ⟨rfl, rfl⟩ | ⟨rfl, rfl⟩ | ⟨rfl, rfl⟩ <;> constructor <;> simp [h0]

/-- The groups that both stages passed: KIND_PASS, and with a request the four outcomes of stage 3. -/
theorem groupInv_kindParsed {r k x : Byte} {dataV fail : Bool} (h0 : s[0]? = some 0xA5#8) (h1 : s[1]? = some k)
    (hk : k ≤ 0x03#8)
    (hr : (r, dataV, fail) = (0x04#8, false, false) ∨ txv = true ∧ (r, dataV, fail) ∈
      [(0x01#8, false, false), (0x02#8, true, false), (0x12#8, false, true), (0x13#8, true, true)]) :
    GroupInv s txv ⟨r, k, x, true, true, dataV, fail⟩ := by
  simp only [List.mem_cons, List.not_mem_nil, or_false, Prod.mk.injEq] at hr
  rcases hr with ⟨rfl, rfl, rfl⟩ | ⟨rfl, ⟨rfl, rfl, rfl⟩ | ⟨rfl, rfl, rfl⟩ | ⟨rfl, rfl, rfl⟩ | ⟨rfl, rfl, rfl⟩⟩ <;>
    constructor <;> simp [h0, h1, hk]

theorem groupInv_envelopeGroup : GroupInv s txv (envelopeGroup s) := by
  rcases validateEnvelope_cases s with ⟨t, rfl, -⟩ | ⟨-, hg, -⟩
  · exact groupInv_envelopeOnly rfl (by decide)
  · rw [hg]
    exact groupInv_bareError (by decide)

theorem groupInv_kindGroup : GroupInv s txv (kindGroup s) := by
  rcases validateEnvelope_cases s with ⟨_ | ⟨k, t⟩, rfl, -⟩ | ⟨-, -, hg⟩
  · exact groupInv_envelopeOnly rfl (by decide)
  · by_cases hk : k ≤ 0x03#8
    · simp only [kindGroup, hk, if_true]
      exact groupInv_kindParsed rfl rfl hk (.inl rfl)
    · simp only [kindGroup, hk, if_true, if_false]
      exact groupInv_envelopeOnly rfl (by decide)
  · rw [hg]
    exact groupInv_bareError (by decide)

/-- Everything stage 3 can answer: a status value only under kind Status, a device error only under kind Err. -/
theorem stage3_cases (c : Command) (k : ResponseKind) (s : List Byte) :
    stage3 c k s = .success ∨ stage3 c k s = .shapeError ∨
    (k = .status ∧ ∃ m, stage3 c k s = .statusValue m) ∨ (k = .err ∧ ∃ e, stage3 c k s = .deviceError e) := by
  have hstatus : statusAnswer s = .shapeError ∨ ∃ m, statusAnswer s = .statusValue m := by
    unfold statusAnswer
    split
    · split
      · next m _ => exact .inr ⟨m, rfl⟩
      · exact .inl rfl
    · exact .inl rfl
  cases c <;> cases k <;> simp [stage3, hstatus]

/-- Everything `interpret` can answer, by the shape of the sequence (43_interpret.md R152). -/
theorem interpret_cases (c : Command) (s : List Byte) :
    interpret c s = .envelopeError ∨ (s = [0xA5#8] ∧ interpret c s = .shapeError) ∨
    (∃ k t, s = 0xA5#8 :: k :: t ∧ interpret c s = .decodeError k) ∨
    ∃ k t, s = 0xA5#8 :: kindCode k :: t ∧ interpret c s = stage3 c k s := by
  rcases validateEnvelope_cases s with ⟨_ | ⟨k, t⟩, rfl, hv⟩ | ⟨hv, -, -⟩
  · exact .inr (.inl ⟨rfl, by simp [interpret, hv]⟩)
  · rcases parseKind_cases k with ⟨kd, hk, rfl, -⟩ | ⟨hk, -⟩
    · exact .inr (.inr (.inr ⟨kd, t, rfl, by simp [interpret, hv, hk]⟩))
    · exact .inr (.inr (.inl ⟨k, t, rfl, by simp [interpret, hv, hk]⟩))
  · exact .inl (by simp [interpret, hv])

theorem kindCode_le (k : ResponseKind) : kindCode k ≤ 0x03#8 := by cases k <;> decide

/-- The group of stage 3's outcome, for a sequence whose kind byte is the kind's own. -/
theorem groupInv_stage3 (c : Command) (k : ResponseKind) (t : List Byte) (hs : s = 0xA5#8 :: kindCode k :: t) :
    GroupInv s true (outcomeGroup s (stage3 c k s)) := by
  have h0 : s[0]? = some 0xA5#8 := by simp [hs]
  have h1 : s[1]? = some (kindCode k) := by simp [hs]
  have hd : s.getD 1 0#8 = kindCode k := by simp [hs]
  have hn : ¬s.length < 2 := by simp [hs]
  rcases stage3_cases c k s with h | h | ⟨rfl, m, h⟩ | ⟨rfl, e, h⟩ <;> rw [h]
  · simp only [outcomeGroup, hd]
    exact groupInv_kindParsed h0 h1 (kindCode_le k) (.inr ⟨rfl, by decide⟩)
  · simp only [outcomeGroup, hn, if_false, hd]
    exact groupInv_kindParsed h0 h1 (kindCode_le k) (.inr ⟨rfl, by decide⟩)
  · exact groupInv_kindParsed h0 h1 (by decide) (.inr ⟨rfl, by decide⟩)
  · exact groupInv_kindParsed h0 h1 (by decide) (.inr ⟨rfl, by decide⟩)

theorem groupInv_interpret (c : Command) (s : List Byte) : GroupInv s true (outcomeGroup s (interpret c s)) := by
  rcases interpret_cases c s with h | ⟨rfl, h⟩ | ⟨k, t, rfl, h⟩ | ⟨k, t, hs, h⟩ <;> rw [h]
  · exact groupInv_bareError (by decide)
  · exact groupInv_envelopeOnly rfl (by decide)
  · exact groupInv_envelopeOnly rfl (by decide)
  · exact groupInv_stage3 c k t hs

end Groups

/-- Every fresh group meets I4 to I10. -/
theorem FreshGroup.groupInv {b : Codec} (h : FreshGroup b) : GroupInv b.rx b.txv b.rg := by
  rcases h with h | h | h | ⟨c, ht, -, h⟩ | ⟨-, h⟩ | ⟨-, -, -, h⟩ | h <;> rw [h]
  · exact groupInv_zero
  · exact groupInv_envelopeGroup
  · exact groupInv_kindGroup
  · rw [ht]
    exact groupInv_interpret c b.rx
  · exact groupInv_bareError (by decide)
  · exact groupInv_bareError (by decide)
  · exact groupInv_bareError (by decide)

/-! ## The step lemma and what follows from it -/

theorem RegisterInv.blockInv {b : Codec} (h : RegisterInv b) (hf : FreshGroup b) : BlockInv b :=
  blockInv_of_parts h hf.groupInv

theorem Effect.keeps_blockInv {f : Codec → Codec} (hf : Effect f) {b : Codec} (h : BlockInv b) : BlockInv (f b) := by
  rcases hf.fresh_or_same b with hfresh | hsame
  · exact (hf.keeps_registerInv h.registerInv).blockInv hfresh
  · rwa [hsame]

theorem blockInv_interpretOp {b d : Codec} (hd : interpretOp b = some d) (h : BlockInv b) : BlockInv d := by
  have hr : RegisterInv d := by
    rcases interpretOp_cases hd with ⟨-, rfl⟩ | ⟨-, c, -, rfl⟩ <;> exact h.registerInv.withGroup _
  exact hr.blockInv (freshGroup_interpretOp hd)

theorem blockInv_keptByOps : KeptByOps BlockInv := ⟨Effect.keeps_blockInv, blockInv_interpretOp⟩

/-- Settles O52: I1 to I3 are kept by each operation, and the group each leaves is fresh, so it meets I4 to I10. -/
theorem stepKeepsBlockInv : Obligations.StepKeepsBlockInv :=
  fun _ _ hs h => blockInv_keptByOps.of_step h hs

theorem freshGroup_reset : FreshGroup Codec.reset := freshGroup_of_zero rfl

theorem blockInv_reset : BlockInv Codec.reset := (registerInv_of_noFrame rfl rfl (by decide)).blockInv freshGroup_reset

theorem bufferInv_reset : BufferInv Codec.reset := ⟨wf_nil, nofun, by decide⟩

/-- Settles O51: at reset the group is zero, no frame is valid and the store lists nothing. -/
theorem resetMeetsTheInvariants : Obligations.ResetMeetsTheInvariants :=
  ⟨blockInv_reset, freshGroup_reset, bufferInv_reset⟩

/-- Settles O53: the step lemma, carried along the run from reset. -/
theorem reachableStatesMeetBlockInv : Obligations.ReachableStatesMeetBlockInv :=
  fun n _ _ h => run_keeps (M := core) (P := fun s => BlockInv s.block) blockInv_keptByOps.of_step n h blockInv_reset

/-- By I1, DEC finds a command whenever TXV = 1. -/
theorem BlockInv.interpretOp_ne_none {b : Codec} (h : BlockInv b) : interpretOp b ≠ none := by
  cases ht : b.txv with
  | false => simp [interpretOp_noRequest ht]
  | true =>
    obtain ⟨c, hc⟩ := (parseCmd_some_iff b.cmd).2 (h.frameMatches ht).1
    simp [interpretOp_request ht hc]

/-- Under the invariants no instruction is refused. -/
theorem BlockInv.exec_ne_refused {s : State} (h : BlockInv s.block) (i : Instr) (r : Refusal) :
    exec i s ≠ .refused r := by
  intro hr
  rcases exec_forms i with ⟨off, rfl⟩ | ⟨f, -, he⟩ | ⟨f, hf, he⟩
  · cases hr
  · rw [he] at hr
    cases hr
  · rw [he] at hr
    exact (hf.keeps_blockInv h).interpretOp_ne_none (completesIf_refused hr).2

/-- Settles O54: what a step refuses before an instruction runs is refused for another reason, and under the invariants
no instruction is refused. -/
theorem stepNeverLacksTheCommand : Obligations.StepNeverLacksTheCommand := by
  intro s h hr
  rcases step_forms s with hstep | ⟨i, hstep⟩ | ⟨r, hne, hstep⟩ <;> rw [hstep s rfl] at hr
  · cases hr
  · exact BlockInv.exec_ne_refused (s := issued s) h i _ hr
  · exact hne (Host.Outcome.refused.inj hr)

end Sys2Proof.Machine
end

section
/-! PROOFS. The receive buffer: the stale bytes cannot be observed (10_state.md R27), who may write it and where (R25,
R26), and the form its store keeps. -/

namespace Sys2Proof.Machine

/-! ## What leaves the receive buffer alone -/

@[simp] theorem encodeFrame_rxBuf (b : Codec) : (encodeFrame b).rxBuf = b.rxBuf := by
  cases hc : parseCmd b.cmd with
  | some c => rw [encodeFrame_of_command hc]
  | none => rw [encodeFrame_refused hc]

@[simp] theorem encodeFrame_rxLen (b : Codec) : (encodeFrame b).rxLen = 0#7 := by
  cases hc : parseCmd b.cmd with
  | some c => rw [encodeFrame_of_command hc]
  | none => rw [encodeFrame_refused hc]

theorem touchesFrame_of_encodesRequest {i : Instr} (h : encodesRequest i = true) : touchesFrame i = true := by
  revert h
  cases i <;> simp [encodesRequest, touchesFrame]

/-- Where DEC answers, only the result group is another. -/
theorem interpretOp_keeps {b d : Codec} (h : interpretOp b = some d) : ∃ g, d = { b with rg := g } := by
  rcases interpretOp_cases h with ⟨-, hd⟩ | ⟨-, c, -, hd⟩
  · exact ⟨_, hd⟩
  · exact ⟨_, hd⟩

/-! ## The form of the store -/

/-- The form stays where the store does and RXLEN does not rise. -/
theorem BufferInv.of_sameStore {b d : Codec} (h : BufferInv b) (hb : d.rxBuf = b.rxBuf)
    (hl : d.rxLen.toNat ≤ b.rxLen.toNat) : BufferInv d := by
  obtain ⟨hwf, hidx, hlen⟩ := h
  exact ⟨hb ▸ hwf, hb ▸ hidx, hl.trans hlen⟩

theorem bufferInv_pushByte {b : Codec} (h : BufferInv b) (v : Byte) : BufferInv (pushByte v b) := by
  rcases pushByte_cases v b with ⟨hlt, heq⟩ | ⟨-, heq⟩
  · obtain ⟨hwf, hidx, -⟩ := h
    rw [heq]
    refine ⟨wf_writeByte _ v hwf, fun c hc => ?_, ?_⟩
    · rcases mem_writeByte hc with rfl | hc
      · exact hlt
      · exact hidx c hc
    · show (b.rxLen + 1#7).toNat ≤ 64
      rw [rxLen_succ hlt]
      omega
  · rwa [heq]

theorem Effect.keeps_bufferInv {f : Codec → Codec} (hf : Effect f) {b : Codec} (h : BufferInv b) :
    BufferInv (f b) := by
  induction hf generalizing b with
  | keep => exact h
  | writeCmd v => exact h.of_sameStore rfl le_rfl
  | writeArg1 v => exact h.of_sameStore rfl le_rfl
  | writeArg2 v => exact h.of_sameStore rfl le_rfl
  | encode => exact h.of_sameStore (encodeFrame_rxBuf b) (by simp)
  | push v => exact bufferInv_pushByte h v
  | validate => rw [validateOp_eq]; exact h.of_sameStore rfl le_rfl
  | parseKind => rw [parseKindOp_eq]; exact h.of_sameStore rfl le_rfl
  | clear => exact h.of_sameStore rfl (by simp)
  | badOp => exact h.of_sameStore rfl le_rfl
  | comp _ _ ihf ihg => exact ihg (ihf h)

theorem bufferInv_interpretOp {b d : Codec} (hd : interpretOp b = some d) (h : BufferInv b) : BufferInv d := by
  obtain ⟨g, rfl⟩ := interpretOp_keeps hd
  exact h.of_sameStore rfl le_rfl

/-- Settles O56: only RXB writes the store, below index 64 and by a write that keeps the canonical form. -/
theorem stepKeepsTheBufferForm : Obligations.StepKeepsTheBufferForm :=
  fun _ _ hs h => KeptByOps.of_step ⟨Effect.keeps_bufferInv, bufferInv_interpretOp⟩ h hs

/-! ## Which bytes a push writes -/

/-- What pushing received bytes does to RXBUF and RXLEN, from one block to a later one: the bytes received already and
those not received afterwards stay, RXLEN does not fall, and it does not pass 64. -/
structure Receives (b d : Codec) : Prop where
  bytes : ∀ j, j < b.rxLen.toNat ∨ d.rxLen.toNat ≤ j → readByte d.rxBuf j = readByte b.rxBuf j
  bound : b.rxLen.toNat ≤ 64 → d.rxLen.toNat ≤ 64
  rises : b.rxLen.toNat ≤ d.rxLen.toNat

theorem receives_of_same {b d : Codec} (hb : d.rxBuf = b.rxBuf) (hl : d.rxLen = b.rxLen) : Receives b d where
  bytes _ _ := by rw [hb]
  bound h := hl ▸ h
  rises := hl ▸ le_rfl

theorem Receives.trans {b d e : Codec} (h : Receives b d) (h' : Receives d e) : Receives b e where
  bytes j hj := by
    have hd := h.rises
    have he := h'.rises
    rw [h'.bytes j (by omega), h.bytes j (by omega)]
  bound hb := h'.bound (h.bound hb)
  rises := h.rises.trans h'.rises

theorem receives_pushByte (v : Byte) (b : Codec) : Receives b (pushByte v b) := by
  rcases pushByte_cases v b with ⟨hlt, heq⟩ | ⟨-, heq⟩
  · have hlen : (pushByte v b).rxLen.toNat = b.rxLen.toNat + 1 := by rw [heq]; exact rxLen_succ hlt
    refine ⟨fun j hj => ?_, by omega, by omega⟩
    rw [heq]
    exact readByte_writeByte_other _ v (by omega)
  · rw [heq]
    exact receives_of_same rfl rfl

theorem receives_pushBytes (frame : List Byte) (b : Codec) : Receives b (pushBytes frame b) := by
  induction frame generalizing b with
  | nil => exact receives_of_same rfl rfl
  | cons v vs ih => exact (receives_pushByte v b).trans (ih _)

/-- Pushing a sequence keeps the operands and the frame. -/
theorem pushBytes_keeps (frame : List Byte) (b : Codec) :
    FrameKept b (pushBytes frame b) ∧ OperandsKept b (pushBytes frame b) := by
  induction frame generalizing b with
  | nil => exact ⟨⟨rfl, rfl⟩, rfl, rfl, rfl⟩
  | cons v vs ih =>
    obtain ⟨⟨hcmd, harg1, harg2⟩, htxv, htx⟩ := pushByte_keeps v b
    obtain ⟨⟨htxv', htx'⟩, hcmd', harg1', harg2'⟩ := ih (pushByte v b)
    exact ⟨⟨htxv'.trans htxv, htx'.trans htx⟩, hcmd'.trans hcmd, harg1'.trans harg1, harg2'.trans harg2⟩

/-! ## Which instruction touches what -/

/-- What an instruction of each sort leaves of the block: nothing but the result group is another; received bytes are
pushed; the frame is dropped and the receive buffer stays; or the receive sequence is emptied, the bytes of RXBUF in
their places, by CLR, which drops the frame too, or by an instruction that encodes. -/
theorem exec_block_cases {i : Instr} {s t : State} (h : exec i s = .next t) :
    (∃ g, t.block = { s.block with rg := g }) ∨
    (pushesBytes i = true ∧ ∃ frame g, t.block = { pushBytes frame s.block with rg := g }) ∨
    (touchesFrame i = true ∧ t.block.txv = false ∧ t.block.rxBuf = s.block.rxBuf ∧ t.block.rxLen = s.block.rxLen) ∨
    (touchesFrame i = true ∧ t.block.rxBuf = s.block.rxBuf ∧ t.block.rxLen = 0#7 ∧
      (encodesRequest i = true ∨ i = .clr ∧ t.block.txv = false)) := by
  rcases exec_next_cases h with ⟨off, -, rfl⟩ | ⟨d, rfl, hd⟩
  · exact .inl ⟨_, rfl⟩
  rw [withBlock_block]
  rcases hd with ⟨rfl, rfl⟩ | ⟨-, rfl⟩ | ⟨-, rfl⟩ | ⟨-, hd⟩ | ⟨rfl, rfl⟩ | ⟨_, -, rfl⟩ | ⟨v, rfl, rfl⟩ |
    ⟨v, rfl, rfl⟩ | ⟨v, rfl, rfl⟩ | ⟨v, rfl, rfl⟩ | ⟨_, _, -, rfl⟩ | ⟨he, -, c, a1, a2, rfl⟩ | ⟨hp, -, -, frame, hd⟩
  · exact .inr (.inr (.inr ⟨rfl, encodeFrame_rxBuf _, encodeFrame_rxLen _, .inl rfl⟩))
  · exact .inl ⟨_, validateOp_eq _⟩
  · exact .inl ⟨_, parseKindOp_eq _⟩
  · exact .inl (interpretOp_keeps hd)
  · exact .inr (.inr (.inr ⟨rfl, rfl, rfl, .inr ⟨rfl, rfl⟩⟩))
  · exact .inl ⟨_, badOp_eq _⟩
  · exact .inr (.inr (.inl ⟨rfl, rfl, rfl, rfl⟩))
  · exact .inr (.inr (.inl ⟨rfl, rfl, rfl, rfl⟩))
  · exact .inr (.inr (.inl ⟨rfl, rfl, rfl, rfl⟩))
  · exact .inr (.inl ⟨rfl, [v], _, rfl⟩)
  · exact .inl ⟨_, rfl⟩
  · rw [requestSequence_eq]
    exact .inr (.inr (.inr ⟨touchesFrame_of_encodesRequest he, rfl, rfl, .inl he⟩))
  · exact .inr (.inl ⟨hp, frame, interpretOp_keeps hd⟩)

/-- Settles O48: of the instructions, those that change only the result group or push bytes keep the frame and the
operands; the others touch the frame, and TXV is set by none of them but those that encode. -/
theorem onlyTheEncoderTouchesTheFrame : Obligations.OnlyTheEncoderTouchesTheFrame := by
  intro i s t h
  rcases exec_block_cases h with ⟨g, hb⟩ | ⟨-, frame, g, hb⟩ | ⟨ht, htxv, -⟩ | ⟨ht, -, -, he | ⟨-, htxv⟩⟩
  · rw [hb]
    exact ⟨fun _ => ⟨⟨rfl, rfl⟩, rfl, rfl, rfl⟩, .inl⟩
  · have hkept := pushBytes_keeps frame s.block
    rw [hb]
    exact ⟨fun _ => hkept, fun htxv => .inl (hkept.1.1.symm.trans htxv)⟩
  · simp [ht, htxv]
  · simp [ht, he]
  · simp [ht, htxv]

/-- Settles O49: only a push writes RXBUF, from the first index not yet received on; the rest leaves the bytes in their
places and RXLEN as it is or empty. -/
theorem onlyRxbTouchesTheBuffer : Obligations.OnlyRxbTouchesTheBuffer := by
  intro i s t h
  rcases exec_block_cases h with ⟨g, hb⟩ | ⟨hp, frame, g, hb⟩ | ⟨-, -, hbuf, hlen⟩ | ⟨-, hbuf, hlen, hi⟩
  · rw [hb]
    exact ⟨fun _ _ => rfl, fun _ _ => rfl, id, .inl le_rfl⟩
  · obtain ⟨hbytes, hbound, hrises⟩ := receives_pushBytes frame s.block
    rw [hb]
    exact ⟨fun hn => absurd (hp.symm.trans hn) (by decide), hbytes, hbound, .inl hrises⟩
  · rw [hlen]
    exact ⟨fun _ j => by rw [hbuf], fun j _ => by rw [hbuf], id, .inl le_rfl⟩
  · exact ⟨fun _ j => by rw [hbuf], fun j _ => by rw [hbuf], fun _ => by simp [hlen],
      .inr ⟨hlen, hi.imp_right And.left⟩⟩

/-! ## The stale bytes -/

/-- Two blocks of one view are one block but for the store, and the stores agree below RXLEN. -/
theorem sameView_iff {b d : Codec} :
    SameView b d ↔ ∃ m, d = { b with rxBuf := m } ∧ ∀ j, j < b.rxLen.toNat → readByte b.rxBuf j = readByte m j := by
  constructor
  · obtain ⟨cmd, arg1, arg2, tx, txv, buf, len, rg⟩ := d
    rintro ⟨rfl, rfl, rfl, rfl, rfl, rfl, rfl, hm⟩
    exact ⟨buf, rfl, hm⟩
  · rintro ⟨m, rfl, hm⟩
    exact ⟨rfl, rfl, rfl, rfl, rfl, rfl, rfl, hm⟩

theorem SameView.rx_eq {b d : Codec} (h : SameView b d) : b.rx = d.rx := by
  obtain ⟨m, rfl, hm⟩ := sameView_iff.1 h
  exact rx_congr rfl hm

/-- No offset of the host register space shows the store. -/
theorem SameView.hostRead_eq {b d : Codec} (h : SameView b d) (off : Byte) : hostRead b off = hostRead d off := by
  obtain ⟨m, rfl, -⟩ := sameView_iff.1 h
  rfl

/-- The same outcome recorded in two blocks of one view. -/
theorem SameView.withGroup {b d : Codec} (h : SameView b d) (g : ResultGroup) :
    SameView { b with rg := g } { d with rg := g } := by
  obtain ⟨hcmd, harg1, harg2, htx, htxv, -, hlen, hbytes⟩ := h
  exact ⟨hcmd, harg1, harg2, htx, htxv, rfl, hlen, hbytes⟩

theorem sameView_encodeFrame {b d : Codec} (h : SameView b d) : SameView (encodeFrame b) (encodeFrame d) := by
  obtain ⟨m, rfl, -⟩ := sameView_iff.1 h
  cases hc : parseCmd b.cmd with
  | some c =>
    rw [encodeFrame_of_command hc, encodeFrame_of_command (b := { b with rxBuf := m }) hc]
    exact sameView_iff.2 ⟨m, rfl, nofun⟩
  | none =>
    rw [encodeFrame_refused hc, encodeFrame_refused (b := { b with rxBuf := m }) hc]
    exact sameView_iff.2 ⟨m, rfl, nofun⟩

/-- The byte pushed lands at the same index of both stores, and the stores agreed below it. -/
theorem sameView_pushByte {b d : Codec} (h : SameView b d) (v : Byte) : SameView (pushByte v b) (pushByte v d) := by
  obtain ⟨m, rfl, hm⟩ := sameView_iff.1 h
  rcases pushByte_cases v b with ⟨hlt, heq⟩ | ⟨hge, heq⟩ <;>
    rcases pushByte_cases v { b with rxBuf := m } with ⟨hlt', heq'⟩ | ⟨hge', heq'⟩
  · rw [heq, heq']
    refine sameView_iff.2 ⟨_, rfl, fun j hj => ?_⟩
    change readByte (writeByte b.rxBuf b.rxLen.toNat v) j = readByte (writeByte m b.rxLen.toNat v) j
    change j < (b.rxLen + 1#7).toNat at hj
    by_cases hjn : j = b.rxLen.toNat
    · rw [hjn, readByte_writeByte_same, readByte_writeByte_same]
    · rw [readByte_writeByte_other _ v hjn, readByte_writeByte_other _ v hjn]
      rw [rxLen_succ hlt] at hj
      exact hm j (by omega)
  · exact absurd hlt hge'.not_gt
  · exact absurd hlt' hge.not_gt
  · rwa [heq, heq']

theorem Effect.keeps_sameView {f : Codec → Codec} (hf : Effect f) {b d : Codec} (h : SameView b d) :
    SameView (f b) (f d) := by
  induction hf generalizing b d with
  | keep => exact h
  | encode => exact sameView_encodeFrame h
  | push v => exact sameView_pushByte h v
  | validate => rw [validateOp_eq, validateOp_eq, h.rx_eq]; exact h.withGroup _
  | parseKind => rw [parseKindOp_eq, parseKindOp_eq, h.rx_eq]; exact h.withGroup _
  | badOp => rw [badOp_eq, badOp_eq]; exact h.withGroup _
  | comp _ _ ihf ihg => exact ihg (ihf h)
  | writeCmd v | writeArg1 v | writeArg2 v =>
    obtain ⟨m, rfl, hm⟩ := sameView_iff.1 h
    exact sameView_iff.2 ⟨m, rfl, hm⟩
  | clear =>
    obtain ⟨m, rfl, -⟩ := sameView_iff.1 h
    exact sameView_iff.2 ⟨m, rfl, nofun⟩

/-- DEC answers at both of two blocks of one view, with the same group, or at neither. -/
theorem sameView_interpretOp {b d : Codec} (h : SameView b d) :
    Option.Rel SameView (interpretOp b) (interpretOp d) := by
  have hrx := h.rx_eq
  obtain ⟨hcmd, -, -, -, htxv, -⟩ := id h
  cases ht : b.txv with
  | false =>
    rw [interpretOp_noRequest ht, interpretOp_noRequest (htxv ▸ ht)]
    exact .some (h.withGroup _)
  | true =>
    cases hc : parseCmd b.cmd with
    | none =>
      rw [interpretOp_noCommand ht hc, interpretOp_noCommand (htxv ▸ ht) (hcmd ▸ hc)]
      exact .none
    | some c =>
      rw [interpretOp_request ht hc, interpretOp_request (htxv ▸ ht) (hcmd ▸ hc), hrx]
      exact .some (h.withGroup _)

/-- Two outcomes that the host cannot tell apart: next states of one view, or one refusal. -/
inductive SameOutcome : Host.Outcome State Fault Refusal → Host.Outcome State Fault Refusal → Prop where
  | next {t t' : State} : SameToTheHost t t' → SameOutcome (.next t) (.next t')
  | refused (r : Refusal) : SameOutcome (.refused r) (.refused r)

section Steps

variable {s s' : State}

theorem SameToTheHost.issued (h : SameToTheHost s s') : SameToTheHost (issued s) (issued s') := by
  obtain ⟨hview, hpending, hread⟩ := h
  exact ⟨hview, congrArg List.tail hpending, hread⟩

theorem SameToTheHost.withBlock (h : SameToTheHost s s') {b d : Codec} (hb : SameView b d) :
    SameToTheHost (s.withBlock b) (s'.withBlock d) :=
  ⟨hb, h.2⟩

theorem sameOutcome_completesIf (h : SameToTheHost s s') {f : Codec → Option Codec}
    (hf : Option.Rel SameView (f s.block) (f s'.block)) : SameOutcome (completesIf s f) (completesIf s' f) := by
  unfold completesIf
  generalize f s.block = x, f s'.block = y at hf
  cases hf with
  | none => exact .refused _
  | some hb => exact .next (h.withBlock hb)

/-- One instruction issued in two states that differ in stale bytes alone has one outcome to the host. -/
theorem sameOutcome_exec (h : SameToTheHost s s') (i : Instr) : SameOutcome (exec i s) (exec i s') := by
  obtain ⟨hview, hpending, -⟩ := id h
  rcases exec_forms i with ⟨off, rfl⟩ | ⟨f, hf, he⟩ | ⟨f, hf, he⟩
  · rw [exec_rd, exec_rd]
    exact .next ⟨hview, hpending, congrArg some (hview.hostRead_eq off)⟩
  · rw [he, he, completes_eq, completes_eq]
    exact .next (h.withBlock (hf.keeps_sameView hview))
  · rw [he, he]
    exact sameOutcome_completesIf h (sameView_interpretOp (hf.keeps_sameView hview))

theorem sameOutcome_step (h : SameToTheHost s s') : SameOutcome (step s) (step s') := by
  obtain ⟨-, hpending, -⟩ := id h
  rcases step_forms s with hstep | ⟨i, hstep⟩ | ⟨r, -, hstep⟩ <;> rw [hstep s rfl, hstep s' hpending]
  · exact .next h
  · exact sameOutcome_exec h.issued i
  · exact .refused r

end Steps

/-- Settles O57: the two steps have one outcome to the host, and no offset reads a stale byte. -/
theorem staleBytesAreUnobservable : Obligations.StaleBytesAreUnobservable := by
  intro s s' h
  have hout := sameOutcome_step h
  constructor
  · intro t ht
    rw [ht] at hout
    generalize hx : step s' = x at hout
    cases hout with
    | next hsame => exact ⟨_, rfl, hsame, hsame.1.hostRead_eq⟩
  · intro r hr
    rw [hr] at hout
    generalize hx : step s' = x at hout
    cases hout
    rfl

/-! ## Reset values -/

theorem statusByte_clearAll (b : Codec) : statusByte (clearAll b) = 0x00#8 := by
  simp [statusByte, flagBit, ResultGroup.zero]

/-- Every item is at its reset value after CLR, RXBUF apart, and so every offset reads 0x00. -/
theorem hostRead_clearAll (b : Codec) (off : Byte) : hostRead (clearAll b) off = 0x00#8 := by
  simp [hostRead, statusByte_clearAll, TxBuf.zero, ResultGroup.zero]

theorem clearAll_rx (b : Codec) : (clearAll b).rx = [] := rx_of_empty (clearAll_rxLen b)

/-- Reset leaves what CLR leaves. -/
theorem clearAll_reset : clearAll Codec.reset = Codec.reset := rfl

/-- Settles O40: CLR writes every item but RXBUF, and the reset block is one that CLR leaves. -/
theorem resetValues : Obligations.ResetValues := by
  have hclr (b : Codec) := And.intro (clearAll_rx b) (hostRead_clearAll b)
  refine ⟨⟨rfl, rfl, rfl, rfl, rfl, rfl, rfl, hclr Codec.reset⟩, fun s => ⟨_, exec_clr s, ?_⟩⟩
  exact ⟨rfl, rfl, rfl, rfl, rfl, rfl, rfl, hclr s.block⟩

end Sys2Proof.Machine
end

section
/-! PROOFS. Bitmasks (20_memory.md R52), and the received sequence after a push (R54, 41_receive_validate.md R120): it
is continued by the bytes pushed and cut at RX_CAP. -/

namespace Sys2Proof.Machine

/-! ## Bitmasks -/

theorem shiftRight_and_one_eq_one_iff (m : Byte) (n : Nat) : (m >>> n) &&& 1#8 = 1#8 ↔ m.getLsbD n = true := by
  rw [BitVec.and_one_eq_setWidth_ofBool_getLsbD, BitVec.getLsbD_ushiftRight, Nat.add_zero]
  cases m.getLsbD n <;> decide

/-- Settles O14: the bit shifted to place 0 and masked is the bit itself. -/
theorem bitmaskBitIsRelay : Obligations.BitmaskBitIsRelay :=
  ⟨fun m i => (shiftRight_and_one_eq_one_iff m i).symm, by decide⟩

/-! ## The received sequence after a push -/

theorem take_take_append {α : Type} (n : Nat) (l m : List α) : (l.take n ++ m).take n = (l ++ m).take n := by
  have hroom : n - min n l.length = n - l.length := by omega
  rw [List.take_append, List.take_append, List.take_take, min_self, List.length_take, hroom]

/-- One byte more is received: the last one, read from RXBUF at RXLEN. -/
theorem rx_succ {b d : Codec} (hlen : d.rxLen.toNat = b.rxLen.toNat + 1)
    (hbuf : ∀ i, i < b.rxLen.toNat → readByte d.rxBuf i = readByte b.rxBuf i) :
    d.rx = b.rx ++ [readByte d.rxBuf b.rxLen.toNat] := by
  have hold : (List.range b.rxLen.toNat).map (readByte d.rxBuf) = b.rx :=
    List.map_congr_left fun i hi => hbuf i (List.mem_range.1 hi)
  rw [← hold, Codec.rx, hlen, List.range_succ, List.map_append]
  rfl

/-- RXB below RX_CAP appends its byte. -/
theorem rx_pushByte_of_lt {b : Codec} (h : b.rxLen.toNat < 64) (v : Byte) : (pushByte v b).rx = b.rx ++ [v] := by
  rcases pushByte_cases v b with ⟨-, heq⟩ | ⟨hge, -⟩
  · have hlen : (pushByte v b).rxLen.toNat = b.rxLen.toNat + 1 := by rw [heq]; exact rxLen_succ h
    have hlast : readByte (pushByte v b).rxBuf b.rxLen.toNat = v := by rw [heq]; exact readByte_writeByte_same _ _ v
    rw [rx_succ hlen fun i hi => (receives_pushByte v b).bytes i (.inl hi), hlast]
  · exact absurd h hge.not_gt

/-- RXB appends its byte and cuts at RX_CAP, which drops it from a full buffer. -/
theorem rx_pushByte {b : Codec} (h : b.rxLen.toNat ≤ 64) (v : Byte) :
    (pushByte v b).rx = (b.rx ++ [v]).take 64 := by
  rcases pushByte_cases v b with ⟨hlt, -⟩ | ⟨hge, heq⟩
  · rw [rx_pushByte_of_lt hlt, List.take_of_length_le (by simpa using hlt)]
  · have hfull : b.rx.length = 64 := by rw [length_rx]; omega
    rw [heq, ← hfull, List.take_left]

theorem rx_pushBytes {b : Codec} (h : b.rxLen.toNat ≤ 64) (bytes : List Byte) :
    (pushBytes bytes b).rx = (b.rx ++ bytes).take 64 := by
  induction bytes generalizing b with
  | nil => simpa using h
  | cons v vs ih =>
    calc (pushBytes vs (pushByte v b)).rx
        = ((pushByte v b).rx ++ vs).take 64 := ih ((receives_pushByte v b).bound h)
      _ = ((b.rx ++ [v]).take 64 ++ vs).take 64 := by rw [rx_pushByte h]
      _ = (b.rx ++ v :: vs).take 64 := by rw [take_take_append, List.append_assoc, List.singleton_append]

theorem rxLen_pushBytes {b : Codec} (h : b.rxLen.toNat ≤ 64) (bytes : List Byte) :
    (pushBytes bytes b).rxLen.toNat = min (b.rxLen.toNat + bytes.length) 64 := by
  rw [← length_rx, rx_pushBytes h, List.length_take, List.length_append, length_rx, min_comm]

/-- RX runs as the push of its bytes (30_encoding.md R82). -/
theorem execAll_pseudoRx (bytes : List Byte) (s : State) :
    execAll (pseudoRx bytes) s = completes s (pushBytes bytes) := by
  induction bytes generalizing s with
  | nil => rfl
  | cons v vs ih => exact ih (s.withBlock (pushByte v s.block))

/-- Settles O25: RX is the push of its bytes, which continues the received sequence, and RXLEN tells the indices that
it stores to. -/
theorem pushedBytesAreCutAt64 : Obligations.PushedBytesAreCutAt64 := by
  intro bytes s h
  obtain ⟨hframe, hoperands⟩ := pushBytes_keeps bytes s.block
  refine ⟨_, execAll_pseudoRx bytes s, rx_pushBytes h bytes, fun i hi => ?_, hoperands, hframe, rfl, rfl⟩
  rw [← rxLen_pushBytes h] at hi
  exact (receives_pushBytes bytes s.block).bytes i hi

end Sys2Proof.Machine
end

section
/-! PROOFS. The decoder reads back what the encoder writes (30_encoding.md R71 to R77, R84): the exact rows by
computation, a catch-all row because its operand is none that an earlier row takes. -/

namespace Sys2Proof

theorem decodeOp_of_reservedOp {d : Byte} (h : reservedOp d = true) : decodeOp d = .oprsv d := by
  have hd : d ≠ opEnc ∧ d ≠ opVenv ∧ d ≠ opPkind ∧ d ≠ opDec ∧ d ≠ opClr := by
    refine ⟨?_, ?_, ?_, ?_, ?_⟩ <;> rintro rfl <;> exact absurd h (by decide)
  obtain ⟨henc, hvenv, hpkind, hdec, hclr⟩ := hd
  simp only [decodeOp, henc, hvenv, hpkind, hdec, hclr, if_false]

theorem decodeWrite_of_ignoredOffset {off : Byte} (h : ignoredOffset off = true) (v : Byte) :
    decodeWrite off v = .wrign off v := by
  have hoff : off ≠ offOp ∧ off ≠ offCmd ∧ off ≠ offArg1 ∧ off ≠ offArg2 ∧ off ≠ offRxdata := by
    refine ⟨?_, ?_, ?_, ?_, ?_⟩ <;> rintro rfl <;> exact absurd h (by decide)
  obtain ⟨hop, hcmd, harg1, harg2, hrx⟩ := hoff
  simp only [decodeWrite, hop, hcmd, harg1, harg2, hrx, if_false]

theorem decodeResponse_of_unknownKindByte {k : Byte} (h : unknownKindByte k = true) (payload : List Byte) :
    decodeResponse (config.magic :: k :: payload) = .ok (.rspUnknown k payload) := by
  have hk : k ≠ config.okCode ∧ k ≠ config.errCode ∧ k ≠ config.statusCode ∧ k ≠ config.pongCode := by
    refine ⟨?_, ?_, ?_, ?_⟩ <;> rintro rfl <;> exact absurd h (by decide)
  obtain ⟨hok, herr, hstatus, hpong⟩ := hk
  simp only [decodeResponse, hok, herr, hstatus, hpong, if_true, if_false]

theorem decodeResponse_of_badEnvelope {frame : List Byte} (h : badEnvelope frame = true) :
    decodeResponse frame = .ok (.rspBadmagic frame) := by
  rcases frame with _ | ⟨m, _ | ⟨k, payload⟩⟩
  · rfl
  all_goals
    have hm : m ≠ config.magic := by simpa [badEnvelope] using h
    simp only [decodeResponse, hm, if_false]

/-- An instruction of the opcode table is decoded from its own encoding. -/
theorem decode_encode {i : Instr} (h : i.wf = true) : decode (encode i).1 (encode i).2 = .ok i := by
  cases i with
  | oprsv d => exact congrArg Except.ok (decodeOp_of_reservedOp h)
  | wrign off v => exact congrArg Except.ok (decodeWrite_of_ignoredOffset h v)
  | rspUnknown k payload => exact decodeResponse_of_unknownKindByte h payload
  | rspBadmagic frame => exact decodeResponse_of_badEnvelope h
  | enc | venv | pkind | dec | clr | setcmd | seta1 | seta2 | rxb | rd => rfl
  | reqPing | reqGetstatus | reqSetrelay | reqTogglerelay | reqSetall => rfl
  | rspOk | rspErr | rspStatus | rspPong => rfl

end Sys2Proof
end

section
/-! PROOFS. Stepping (20_memory.md R58): a step runs the instruction of the first pending access, an instruction
neither reads the pending accesses nor changes them, and so a run is the fold of the operation rules. -/

namespace Sys2Proof.Machine

/-! ## One step -/

/-- Settles O42: the access is fetched, taken as the instruction it decodes to, and no longer pending. -/
theorem stepRunsTheDecodedInstruction : Obligations.StepRunsTheDecodedInstruction := by
  intro s f bytes rest i hp hd
  have hfetch : fetch s = .run i := by simp only [fetch, hp, takeAccess, hd]
  have hissued : issued s = { s with pending := rest } := by simp only [issued, hp, List.tail_cons]
  simp only [step, hfetch, hissued]

theorem step_access {i : Instr} (h : i.wf = true) (s : State) (rest : List Access) :
    step { s with pending := i.access :: rest } = exec i { s with pending := rest } :=
  stepRunsTheDecodedInstruction { s with pending := i.access :: rest } _ _ rest i rfl (decode_encode h)

/-- One instruction with any accesses pending: the outcome is the same, and they stay pending. -/
theorem exec_withPending_cases (i : Instr) (s : State) :
    (∃ t : State, ∀ p, exec i { s with pending := p } = .next { t with pending := p }) ∨
    ∃ r, ∀ p, exec i { s with pending := p } = .refused r := by
  rcases exec_forms i with ⟨off, rfl⟩ | ⟨f, -, he⟩ | ⟨f, -, he⟩
  · exact .inl ⟨{ s with lastRead := some (hostRead s.block off) }, fun _ => rfl⟩
  · exact .inl ⟨s.withBlock (f s.block), fun _ => he _⟩
  · cases hb : interpretOp (f s.block) with
    | some b => exact .inl ⟨s.withBlock b, fun p => by simp [he, completesIf, hb, State.withBlock]⟩
    | none => exact .inr ⟨.noCommand, fun p => by simp [he, completesIf, hb]⟩

/-! ## Many steps -/

theorem run_succ_of_next {M : Host.Core} {s t : M.State} (h : M.step s = .next t) (n : Nat) :
    M.run (n + 1) s = M.run n t := by
  simp only [Host.Core.run, h]

theorem run_succ_of_refused {M : Host.Core} {s : M.State} {r : M.Refusal} (h : M.step s = .refused r) (n : Nat) :
    M.run (n + 1) s = .refused r := by
  simp only [Host.Core.run, h]

theorem execAll_cons_of_next {i : Instr} {s t : State} (h : exec i s = .next t) (is : List Instr) :
    execAll (i :: is) s = execAll is t := by
  simp only [execAll, h]

theorem execAll_cons_of_refused {i : Instr} {s : State} {r : Refusal} (h : exec i s = .refused r) (is : List Instr) :
    execAll (i :: is) s = .refused r := by
  simp only [execAll, h]

/-- Settles O44, by induction on the sequence: its first access is issued and runs as its instruction does with nothing
pending, and the rest follows from the state it leaves. -/
theorem runIsTheFoldOfTheOperations : Obligations.RunIsTheFoldOfTheOperations := by
  intro is
  induction is with
  | nil => exact fun _ _ => rfl
  | cons i is ih =>
    intro s hwf
    obtain ⟨hi, his⟩ := List.forall_mem_cons.1 hwf
    have hstep := step_access hi s (is.map Instr.access)
    rcases exec_withPending_cases i s with ⟨t, ht⟩ | ⟨r, hr⟩
    · exact (run_succ_of_next (M := core) (hstep.trans (ht _)) is.length).trans
        ((ih t his).trans (execAll_cons_of_next (ht []) is).symm)
    · exact (run_succ_of_refused (M := core) (hstep.trans (hr _)) is.length).trans
        (execAll_cons_of_refused (hr []) is).symm

end Sys2Proof.Machine
end

section
/-! PROOFS. The encodings (30_encoding.md): what decodes is the encoding of what it decodes to (R84), the codes and
their parsers undo each other (R85), and each frame row is the run of its pseudo-instruction (R82, R83). -/

namespace Sys2Proof

/-- Settles O1. -/
theorem decodeOfEncodeIsTheInstruction : Obligations.DecodeOfEncodeIsTheInstruction :=
  fun _ h => decode_encode h

/-! ## What decodes is an encoding: a catch-all row takes only what the rows before it left -/

theorem reservedOp_of_ne {d : Byte} (henc : d ≠ opEnc) (hvenv : d ≠ opVenv) (hpkind : d ≠ opPkind) (hdec : d ≠ opDec)
    (hclr : d ≠ opClr) : reservedOp d = true := by
  have hd : d = 0x00#8 ∨ 0x05#8 < d := by bv_omega
  simpa [reservedOp, BitVec.ult_iff_lt] using hd

theorem ignoredOffset_of_ne {off : Byte} (hop : off ≠ offOp) (hcmd : off ≠ offCmd) (harg1 : off ≠ offArg1)
    (harg2 : off ≠ offArg2) (hrx : off ≠ offRxdata) : ignoredOffset off = true := by
  have hoff : 0x04#8 < off := by bv_omega
  simpa [ignoredOffset, BitVec.ult_iff_lt] using hoff

theorem unknownKindByte_of_ne {k : Byte} (hok : k ≠ config.okCode) (herr : k ≠ config.errCode)
    (hstatus : k ≠ config.statusCode) (hpong : k ≠ config.pongCode) : unknownKindByte k = true := by
  have hk : 0x03#8 < k := by bv_omega
  simpa [unknownKindByte, BitVec.ult_iff_lt] using hk

/-- The instruction is one of the opcode table's, with these bytes in this form. -/
def IsRowOf (f : Format) (bytes : List Byte) (i : Instr) : Prop := encode i = (f, bytes) ∧ i.wf = true

theorem isRowOf_decodeOp (d : Byte) : IsRowOf .hw16 [offOp, d] (decodeOp d) := by
  unfold decodeOp
  split_ifs with henc hvenv hpkind hdec hclr
  · exact henc ▸ ⟨rfl, rfl⟩
  · exact hvenv ▸ ⟨rfl, rfl⟩
  · exact hpkind ▸ ⟨rfl, rfl⟩
  · exact hdec ▸ ⟨rfl, rfl⟩
  · exact hclr ▸ ⟨rfl, rfl⟩
  · exact ⟨rfl, reservedOp_of_ne henc hvenv hpkind hdec hclr⟩

/-- Every one-byte host write is the encoding of what it decodes to. -/
theorem isRowOf_decodeWrite (off v : Byte) : IsRowOf .hw16 [off, v] (decodeWrite off v) := by
  unfold decodeWrite
  split_ifs with hop hcmd harg1 harg2 hrx
  · exact hop ▸ isRowOf_decodeOp v
  · exact hcmd ▸ ⟨rfl, rfl⟩
  · exact harg1 ▸ ⟨rfl, rfl⟩
  · exact harg2 ▸ ⟨rfl, rfl⟩
  · exact hrx ▸ ⟨rfl, rfl⟩
  · exact ⟨rfl, ignoredOffset_of_ne hop hcmd harg1 harg2 hrx⟩

theorem isRowOf_of_decodeRequest {m cmd a b : Byte} {i : Instr} (h : decodeRequest m cmd a b = .ok i) :
    IsRowOf .req [m, cmd, a, b] i := by
  unfold decodeRequest at h
  split_ifs at h with hm hping hget hset htoggle hall <;> cases h
  · exact hm ▸ hping ▸ ⟨rfl, rfl⟩
  · exact hm ▸ hget ▸ ⟨rfl, rfl⟩
  · exact hm ▸ hset ▸ ⟨rfl, rfl⟩
  · exact hm ▸ htoggle ▸ ⟨rfl, rfl⟩
  · exact hm ▸ hall ▸ ⟨rfl, rfl⟩

theorem isRowOf_rspBadmagic {m : Byte} (h : m ≠ config.magic) (rest : List Byte) :
    IsRowOf .rsp (m :: rest) (.rspBadmagic (m :: rest)) :=
  ⟨rfl, bne_iff_ne.2 h⟩

theorem isRowOf_of_decodeResponse {bytes : List Byte} {i : Instr} (h : decodeResponse bytes = .ok i) :
    IsRowOf .rsp bytes i := by
  rcases bytes with _ | ⟨m, _ | ⟨k, payload⟩⟩
  · cases h
    exact ⟨rfl, rfl⟩
  · simp only [decodeResponse] at h
    split_ifs at h with hm
    cases h
    exact isRowOf_rspBadmagic hm []
  · simp only [decodeResponse] at h
    split_ifs at h with hm hok herr hstatus hpong <;> cases h
    · exact hm ▸ hok ▸ ⟨rfl, rfl⟩
    · exact hm ▸ herr ▸ ⟨rfl, rfl⟩
    · exact hm ▸ hstatus ▸ ⟨rfl, rfl⟩
    · exact hm ▸ hpong ▸ ⟨rfl, rfl⟩
    · exact hm ▸ ⟨rfl, unknownKindByte_of_ne hok herr hstatus hpong⟩
    · exact isRowOf_rspBadmagic hm _

/-- Settles O2, by the form: only a host write of two bytes, a host read of one, a request of four and a response
decode to anything. -/
theorem encodeOfDecodeIsTheBytes : Obligations.EncodeOfDecodeIsTheBytes := by
  intro f bytes i h
  unfold decode at h
  split at h
  · cases h
    exact isRowOf_decodeWrite _ _
  · cases h
  · cases h
  · cases h
    exact ⟨rfl, rfl⟩
  · cases h
  · cases h
  · exact isRowOf_of_decodeRequest h
  · cases h
  · exact isRowOf_of_decodeResponse h

/-! ## The opcode table's numbers -/

/-- A number of the table that stands for an instruction's access decodes to that instruction. -/
theorem decodeTableWord_of_access {i : Instr} {nbits w : Nat} (ha : tableAccess nbits w = i.access)
    (h : i.wf = true) : decodeTableWord nbits w = some i := by
  have hdecode : decode i.access.format i.access.bytes = .ok i := decode_encode h
  simp only [decodeTableWord, ha, hdecode]

/-- Settles O3: each number is computed to be its instruction's access. -/
theorem tableWordsDecode : Obligations.TableWordsDecode := by
  refine ⟨?_, ?_, ?_, ?_, ?_, ?_, ?_, ?_, ?_, ?_⟩ <;> exact decodeTableWord_of_access rfl rfl

end Sys2Proof

namespace Sys2Proof.Machine

/-! ## Command and kind codes -/

theorem parseCmd_eq_none {b : Byte} (h : b = 0x00#8 ∨ 0x05#8 < b) : parseCmd b = none := by
  refine Option.eq_none_iff_forall_ne_some.2 fun c hc => ?_
  obtain ⟨hlow, hhigh⟩ := (parseCmd_some_iff b).1 ⟨c, hc⟩
  bv_omega

theorem kindCode_of_parseKind {b : Byte} {k : ResponseKind} (h : parseKind b = .kind k) : kindCode k = b := by
  rcases parseKind_cases b with ⟨k', hk', hcode, -⟩ | ⟨hunknown, -⟩
  · cases hk'.symm.trans h
    exact hcode
  · cases hunknown.symm.trans h

/-- Settles O4: the codes by computation, the laws by what the two parsers can do. -/
theorem codeRoundTrips : Obligations.CodeRoundTrips :=
  ⟨rfl, rfl, rfl, rfl, rfl, rfl, rfl, rfl, rfl, fun _ => parseCmd_eq_none, parseCmd_cmdCode,
    fun _ _ => cmdCode_of_parseCmd, parseKind_kindCode, fun _ _ => kindCode_of_parseKind⟩

/-! ## The frame rows as runs of their pseudo-instructions -/

/-- REQ with a command's code runs as the request sequence of the command (30_encoding.md R82). -/
theorem execAll_pseudoReq (c : Command) (a1 a2 : Byte) (s : State) :
    execAll (pseudoReq (cmdCode c) a1 a2) s = completes s (requestSequence c a1 a2) := rfl

/-- Settles O22: row and pseudo-instruction are both the request sequence of the row's command. -/
theorem requestRowsAreTheirExpansion : Obligations.RequestRowsAreTheirExpansion := fun a1 a2 s =>
  ⟨(exec_reqPing s a1 a2).trans (execAll_pseudoReq .ping a1 a2 s).symm,
    (exec_reqGetstatus s a1 a2).trans (execAll_pseudoReq .getStatus a1 a2 s).symm,
    (exec_reqSetrelay s a1 a2).trans (execAll_pseudoReq .setRelay a1 a2 s).symm,
    (exec_reqTogglerelay s a1 a2).trans (execAll_pseudoReq .toggleRelay a1 a2 s).symm,
    (exec_reqSetall s a1 a2).trans (execAll_pseudoReq .setAll a1 a2 s).symm⟩

/-- REQ leaves a valid request: the magic byte, the command's code and the arguments (40_encode.md R103). -/
theorem pseudoReq_frame (c : Command) (a1 a2 : Byte) (s : State) :
    ∃ t, execAll (pseudoReq (cmdCode c) a1 a2) s = .next t ∧ t.block.txv = true ∧
      t.block.tx.bytes = [0xA5#8, cmdCode c, a1, a2] := by
  refine ⟨_, execAll_pseudoReq c a1 a2 s, ?_⟩
  rw [withBlock_block, requestSequence_eq]
  exact ⟨rfl, rfl⟩

/-- Settles O23. -/
theorem subCommandsProduceTheirFrame : Obligations.SubCommandsProduceTheirFrame := fun s =>
  ⟨pseudoReq_frame .ping 0#8 0#8 s, pseudoReq_frame .getStatus 0#8 0#8 s,
    fun r => pseudoReq_frame .setRelay r 1#8 s, fun r => pseudoReq_frame .setRelay r 0#8 s,
    fun r => pseudoReq_frame .toggleRelay r 0#8 s, fun m => pseudoReq_frame .setAll m 0#8 s⟩

theorem execAll_singleton (i : Instr) (s : State) : execAll [i] s = exec i s := by
  simp only [execAll]
  split <;> simp only [*]

/-- Where the first operations answer, the rest run from the state they leave. -/
theorem execAll_append_of_next {is : List Instr} {s t : State} (h : execAll is s = .next t) (js : List Instr) :
    execAll (is ++ js) s = execAll js t := by
  induction is generalizing s with
  | nil =>
    cases h
    rfl
  | cons i is ih =>
    cases hi : exec i s with
    | next u =>
      rw [execAll_cons_of_next hi] at h
      rw [List.cons_append, execAll_cons_of_next hi, ih h]
    | fault r => cases r
    | refused r =>
      rw [execAll_cons_of_refused hi] at h
      cases h

/-- RX and then DEC is the response delivered whole (70_reset_and_hazards.md R223). -/
theorem execAll_pseudoRx_dec (bytes : List Byte) (s : State) :
    execAll (pseudoRx bytes ++ [.dec]) s = completesIf s (responseSequence bytes) :=
  calc execAll (pseudoRx bytes ++ [.dec]) s
      = execAll [.dec] (s.withBlock (pushBytes bytes s.block)) :=
        execAll_append_of_next (execAll_pseudoRx bytes s) _
    _ = completesIf (s.withBlock (pushBytes bytes s.block)) interpretOp := execAll_singleton .dec _
    _ = completesIf s (responseSequence bytes) := rfl

/-- Settles O34: row and expansion are both the delivery of the row's bytes. -/
theorem responseRowsAreTheirExpansion : Obligations.ResponseRowsAreTheirExpansion := fun p s =>
  ⟨(exec_rspOk s p).trans (execAll_pseudoRx_dec _ s).symm, (exec_rspErr s p).trans (execAll_pseudoRx_dec _ s).symm,
    (exec_rspStatus s p).trans (execAll_pseudoRx_dec _ s).symm,
    (exec_rspPong s p).trans (execAll_pseudoRx_dec _ s).symm,
    fun k => (exec_rspUnknown s k p).trans (execAll_pseudoRx_dec _ s).symm,
    (exec_rspBadmagic s p).trans (execAll_pseudoRx_dec _ s).symm⟩

end Sys2Proof.Machine
end

section
/-! PROOFS. The command encoder (40_encode.md): the request frame (R103), the operand writes (R104 to R106), ENC (R107)
and the request rows (R108 to R113). -/

namespace Sys2Proof.Machine

/-! ## The request frame -/

theorem cmdCode_injective : Function.Injective cmdCode := fun c c' h =>
  Option.some.inj <|
    calc some c = parseCmd (cmdCode c) := (parseCmd_cmdCode c).symm
      _ = parseCmd (cmdCode c') := congrArg parseCmd h
      _ = some c' := parseCmd_cmdCode c'

theorem encodeRequest_inj {c c' : Command} {a1 a2 a1' a2' : Byte}
    (h : encodeRequest c a1 a2 = encodeRequest c' a1' a2') : c = c' ∧ a1 = a1' ∧ a2 = a2' := by
  obtain ⟨-, hcode, harg1, harg2⟩ := TxBuf.mk.inj h
  exact ⟨cmdCode_injective hcode, harg1, harg2⟩

/-- Settles O7. -/
theorem requestFrameShape : Obligations.RequestFrameShape :=
  ⟨fun c _ _ => ⟨rfl, parseCmd_cmdCode c⟩, fun _ _ _ _ _ _ => encodeRequest_inj⟩

/-! ## The operand writes -/

theorem hostSideKept_withBlock (s : State) (d : Codec) : HostSideKept s (s.withBlock d) :=
  ⟨withBlock_pending s d, withBlock_lastRead s d⟩

theorem rxBytesKept_of_same {b d : Codec} (hbuf : d.rxBuf = b.rxBuf) : RxBytesKept b d := fun i =>
  congrArg (readByte · i) hbuf

theorem receiveKept_of_same {b d : Codec} (hlen : d.rxLen = b.rxLen) (hbuf : d.rxBuf = b.rxBuf) : ReceiveKept b d :=
  ⟨hlen, rxBytesKept_of_same hbuf⟩

/-- Settles O17. -/
theorem setcmdStoresAndInvalidates : Obligations.SetcmdStoresAndInvalidates := fun v s =>
  ⟨decode_encode (i := .setcmd v) rfl, _, exec_setcmd s v,
    writeCmd_cmd .., writeCmd_txv .., writeCmd_tx .., writeCmd_rg .., writeCmd_arg1 .., writeCmd_arg2 ..,
    receiveKept_of_same (writeCmd_rxLen ..) (writeCmd_rxBuf ..), hostSideKept_withBlock ..⟩

/-- Settles O18. -/
theorem seta1StoresAndInvalidates : Obligations.Seta1StoresAndInvalidates := fun v s =>
  ⟨decode_encode (i := .seta1 v) rfl, _, exec_seta1 s v,
    writeArg1_arg1 .., writeArg1_txv .., writeArg1_tx .., writeArg1_rg .., writeArg1_cmd .., writeArg1_arg2 ..,
    receiveKept_of_same (writeArg1_rxLen ..) (writeArg1_rxBuf ..), hostSideKept_withBlock ..⟩

/-- Settles O19. -/
theorem seta2StoresAndInvalidates : Obligations.Seta2StoresAndInvalidates := fun v s =>
  ⟨decode_encode (i := .seta2 v) rfl, _, exec_seta2 s v,
    writeArg2_arg2 .., writeArg2_txv .., writeArg2_tx .., writeArg2_rg .., writeArg2_cmd .., writeArg2_arg1 ..,
    receiveKept_of_same (writeArg2_rxLen ..) (writeArg2_rxBuf ..), hostSideKept_withBlock ..⟩

/-! ## ENC -/

theorem parseCmd_eq_none_iff (b : Byte) : parseCmd b = none ↔ ¬(0x01#8 ≤ b ∧ b ≤ 0x05#8) := by
  rw [← parseCmd_some_iff, ← Option.isSome_iff_exists, Option.not_isSome_iff_eq_none]

/-- The request frame of the command in CMD carries CMD itself. -/
theorem encodeRequest_of_parseCmd {b : Byte} {c : Command} (h : parseCmd b = some c) (a1 a2 : Byte) :
    encodeRequest c a1 a2 = ⟨0xA5#8, b, a1, a2⟩ :=
  congrArg (TxBuf.mk 0xA5#8 · a1 a2) (cmdCode_of_parseCmd h)

theorem operandsKept_encodeFrame (b : Codec) : OperandsKept b (encodeFrame b) := by
  cases hc : parseCmd b.cmd with
  | some c =>
    rw [encodeFrame_of_command hc]
    exact ⟨rfl, rfl, rfl⟩
  | none =>
    rw [encodeFrame_refused hc]
    exact ⟨rfl, rfl, rfl⟩

/-- Settles O20: ENC encodes where CMD parses, and is refused where it does not; what it keeps is the same in both. -/
theorem encEncodesOrRefuses : Obligations.EncEncodesOrRefuses := by
  refine ⟨decode_encode (i := .enc) rfl, fun s hlow hhigh => ?encodes, fun s hcmd => ?refused⟩
  case encodes =>
    obtain ⟨c, hc⟩ := (parseCmd_some_iff s.block.cmd).2 ⟨hlow, hhigh⟩
    have heq := encodeFrame_of_command hc
    exact ⟨_, exec_enc s, (congrArg Codec.tx heq).trans (encodeRequest_of_parseCmd hc _ _), congrArg Codec.txv heq,
      encodeFrame_rxLen _, congrArg Codec.rg heq, operandsKept_encodeFrame _,
      rxBytesKept_of_same (encodeFrame_rxBuf _), hostSideKept_withBlock ..⟩
  case refused =>
    have heq := encodeFrame_refused ((parseCmd_eq_none_iff s.block.cmd).2 hcmd)
    exact ⟨_, exec_enc s, congrArg Codec.tx heq, congrArg Codec.txv heq, encodeFrame_rxLen _, congrArg Codec.rg heq,
      operandsKept_encodeFrame _, rxBytesKept_of_same (encodeFrame_rxBuf _), hostSideKept_withBlock ..⟩

/-! ## The request rows -/

/-- An instruction that runs the request sequence of a command leaves the frame of that command, whatever the arguments
(40_encode.md R113). -/
theorem exec_requestSequence {i : Instr} {s : State} {c : Command} {a1 a2 : Byte}
    (h : exec i s = completes s (requestSequence c a1 a2)) :
    ∃ t, exec i s = .next t ∧ t.block.tx = ⟨0xA5#8, cmdCode c, a1, a2⟩ ∧ t.block.txv = true ∧
      t.block.cmd = cmdCode c ∧ t.block.arg1 = a1 ∧ t.block.arg2 = a2 ∧ t.block.rxLen = 0#7 ∧
      t.block.rg = ⟨0#8, 0#8, 0#8, false, false, false, false⟩ ∧ RxBytesKept s.block t.block ∧ HostSideKept s t := by
  rw [completes_eq, requestSequence_eq] at h
  exact ⟨_, h, rfl, rfl, rfl, rfl, rfl, rfl, rfl, rxBytesKept_of_same rfl, hostSideKept_withBlock ..⟩

/-- Settles O21: each row runs the request sequence of its command. -/
theorem requestRowsProduceTheirFrame : Obligations.RequestRowsProduceTheirFrame := fun a1 a2 s =>
  ⟨exec_requestSequence (exec_reqPing s a1 a2), exec_requestSequence (exec_reqGetstatus s a1 a2),
    exec_requestSequence (exec_reqSetrelay s a1 a2), exec_requestSequence (exec_reqTogglerelay s a1 a2),
    exec_requestSequence (exec_reqSetall s a1 a2)⟩

end Sys2Proof.Machine
end

section
/-! PROOFS. The receive side (41_receive_validate.md): RXB (R120), the envelope (R121 to R123), and what VENV, PKIND and
DEC have in common: each clears the result group first and writes nothing else, so it may be repeated. -/

namespace Sys2Proof.Machine

/-! ## RXB -/

theorem pushByte_of_lt {b : Codec} (h : b.rxLen.toNat < 64) (v : Byte) :
    pushByte v b = { b with
      rxBuf := writeByte b.rxBuf b.rxLen.toNat v, rxLen := b.rxLen + 1#7, rg := ResultGroup.zero } := by
  rcases pushByte_cases v b with ⟨-, heq⟩ | ⟨hge, -⟩
  · exact heq
  · exact absurd h hge.not_gt

theorem pushByte_of_full {b : Codec} (h : 64 ≤ b.rxLen.toNat) (v : Byte) : pushByte v b = b := by
  rcases pushByte_cases v b with ⟨hlt, -⟩ | ⟨-, heq⟩
  · exact absurd hlt h.not_gt
  · exact heq

/-- Settles O24. -/
theorem rxbAppendsOrDrops : Obligations.RxbAppendsOrDrops := by
  refine fun v s => ⟨decode_encode (i := .rxb v) rfl, fun hlt => ?appends, fun hfull => ?drops⟩
  case appends =>
    have heq := pushByte_of_lt hlt v
    have hlen : (pushByte v s.block).rxLen.toNat = s.block.rxLen.toNat + 1 := by rw [heq]; exact rxLen_succ hlt
    have hbytes : ∀ i, i ≠ s.block.rxLen.toNat →
        readByte (pushByte v s.block).rxBuf i = readByte s.block.rxBuf i := fun i hi => by
      rw [heq]; exact readByte_writeByte_other _ v hi
    obtain ⟨hoperands, hframe⟩ := pushByte_keeps v s.block
    exact ⟨_, exec_rxb s v, rx_pushByte_of_lt hlt v, hlen, congrArg Codec.rg heq, hbytes, hoperands, hframe,
      hostSideKept_withBlock ..⟩
  case drops =>
    rw [exec_rxb, completes_eq, pushByte_of_full hfull]
    rfl

/-! ## The envelope -/

/-- A sequence that does not begin with MAGIC fails stage 1, and the groups of VENV and PKIND are the envelope
error's. -/
theorem validateEnvelope_of_bad {s : List Byte} (h : ¬∃ p, s = 0xA5#8 :: p) :
    validateEnvelope s = .invalidMagic ∧ envelopeGroup s = bareError 0x10#8 ∧ kindGroup s = bareError 0x10#8 :=
  (validateEnvelope_cases s).resolve_left fun ⟨p, hs, _⟩ => h ⟨p, hs⟩

theorem interpret_of_bad {s : List Byte} (h : ¬∃ p, s = 0xA5#8 :: p) (c : Command) :
    interpret c s = .envelopeError := by
  obtain ⟨hv, -, -⟩ := validateEnvelope_of_bad h
  rw [interpret, hv]

/-- Settles O8. -/
theorem envelopeValidatorAcceptsMagicOnly : Obligations.EnvelopeValidatorAcceptsMagicOnly := by
  refine fun s => ⟨?_, fun h => (validateEnvelope_of_bad h).1⟩
  rintro ⟨t, rfl⟩
  rfl

/-! ## What the decode family writes -/

/-- The state with another result group. -/
def State.withGroup (s : State) (g : ResultGroup) : State := s.withBlock { s.block with rg := g }

theorem onlyResultGroup_withGroup (s : State) (g : ResultGroup) : OnlyResultGroup s (s.withGroup g) :=
  ⟨hostSideKept_withBlock .., ⟨rfl, rfl, rfl⟩, ⟨rfl, rfl⟩, receiveKept_of_same rfl rfl⟩

theorem exec_venv_eq (s : State) : exec .venv s = .next (s.withGroup (envelopeGroup s.block.rx)) := by
  rw [exec_venv, completes_eq, validateOp_eq]
  rfl

theorem exec_pkind_eq (s : State) : exec .pkind s = .next (s.withGroup (kindGroup s.block.rx)) := by
  rw [exec_pkind, completes_eq, parseKindOp_eq]
  rfl

theorem exec_dec_request {s : State} {c : Command} (htxv : s.block.txv = true) (hcmd : s.block.cmd = cmdCode c) :
    exec .dec s = .next (s.withGroup (outcomeGroup s.block.rx (interpret c s.block.rx))) := by
  have hc : parseCmd s.block.cmd = some c := hcmd ▸ parseCmd_cmdCode c
  rw [exec_dec, completesIf, interpretOp_request htxv hc]
  rfl

/-- Settles O26. -/
theorem venvOutcome : Obligations.VenvOutcome := by
  refine ⟨decode_encode (i := .venv) rfl, fun s =>
    ⟨_, exec_venv_eq s, onlyResultGroup_withGroup .., ?passes, ?fails⟩⟩
  case passes =>
    rintro ⟨p, hp⟩
    exact congrArg envelopeGroup hp
  case fails =>
    intro h
    obtain ⟨-, henvelope, -⟩ := validateEnvelope_of_bad h
    exact henvelope

/-- Settles O29. -/
theorem envelopeErrorComesFirst : Obligations.EnvelopeErrorComesFirst := by
  intro s h
  obtain ⟨-, henvelope, hkind⟩ := validateEnvelope_of_bad h
  exact ⟨⟨_, exec_venv_eq s, henvelope⟩, ⟨_, exec_pkind_eq s, hkind⟩, fun c htxv hcmd =>
    ⟨_, exec_dec_request htxv hcmd, congrArg (outcomeGroup s.block.rx) (interpret_of_bad h c)⟩⟩

/-! ## Repetition -/

/-- VENV, PKIND and DEC do not read the result group: each begins by clearing it. -/
theorem exec_withGroup {i : Instr} (hi : i ∈ [Instr.venv, .pkind, .dec]) (s : State) (g : ResultGroup) :
    exec i (s.withGroup g) = exec i s := by
  simp only [List.mem_cons, List.not_mem_nil, or_false] at hi
  rcases hi with rfl | rfl | rfl <;> rfl

/-- Where VENV, PKIND or DEC answers, only the result group is another. -/
theorem exec_next_withGroup {i : Instr} (hi : i ∈ [Instr.venv, .pkind, .dec]) {s t : State}
    (h : exec i s = .next t) : ∃ g, t = s.withGroup g := by
  simp only [List.mem_cons, List.not_mem_nil, or_false] at hi
  rcases hi with rfl | rfl | rfl
  · exact ⟨_, Host.Outcome.next.inj (h.symm.trans (exec_venv_eq s))⟩
  · exact ⟨_, Host.Outcome.next.inj (h.symm.trans (exec_pkind_eq s))⟩
  · rw [exec_dec] at h
    obtain ⟨d, hd, rfl⟩ := completesIf_next h
    obtain ⟨g, rfl⟩ := interpretOp_keeps hd
    exact ⟨g, rfl⟩

/-- Settles O30: the state left differs in the result group alone, which the operation does not read. -/
theorem decodeFamilyIsIdempotent : Obligations.DecodeFamilyIsIdempotent := by
  intro i s t hi h
  obtain ⟨g, rfl⟩ := exec_next_withGroup hi h
  rw [exec_withGroup hi, h]

end Sys2Proof.Machine
end

section
/-! PROOFS. The response kinds (42_kind_parse.md): the kind parser (R136), PKIND (R137, R143), and the response rows
after a request (R138 to R142), which deliver their frame and decode what RX_CAP leaves of it. -/

namespace Sys2Proof.Machine

/-! ## The kind parser -/

theorem parseKind_of_gt {b : Byte} (h : 0x03#8 < b) : parseKind b = .unknown b := by
  rcases parseKind_cases b with ⟨-, -, -, hle⟩ | ⟨hunknown, -⟩
  · bv_omega
  · exact hunknown

/-- The byte that an unknown kind carries is the byte parsed, and it is no kind code. -/
theorem of_parseKind_unknown {b b' : Byte} (h : parseKind b = .unknown b') : b' = b ∧ 0x04#8 ≤ b := by
  rcases parseKind_cases b with ⟨k, hkind, -⟩ | ⟨hunknown, hgt⟩
  · cases hkind.symm.trans h
  · cases hunknown.symm.trans h
    exact ⟨rfl, by bv_omega⟩

/-- Settles O9. -/
theorem kindParserIsTotal : Obligations.KindParserIsTotal :=
  ⟨parseKind_kindCode .ok, parseKind_kindCode .err, parseKind_kindCode .status, parseKind_kindCode .pong,
    fun _ => parseKind_of_gt, fun _ _ => kindCode_of_parseKind, fun _ _ => of_parseKind_unknown⟩

/-! ## PKIND -/

theorem kindGroup_of_le {k : Byte} (h : k ≤ 0x03#8) (p : List Byte) :
    kindGroup (0xA5#8 :: k :: p) = ⟨0x04#8, k, 0#8, true, true, false, false⟩ := by
  simp only [kindGroup, h, if_true]

theorem kindGroup_of_gt {k : Byte} (h : 0x03#8 < k) (p : List Byte) :
    kindGroup (0xA5#8 :: k :: p) = ⟨0x11#8, k, 0#8, true, false, false, true⟩ := by
  have hk : ¬k ≤ 0x03#8 := by bv_omega
  simp only [kindGroup, hk, if_true, if_false]

/-- Settles O27: PKIND writes the group of the received sequence and nothing else. -/
theorem pkindOutcome : Obligations.PkindOutcome := by
  refine ⟨decode_encode (i := .pkind) rfl, fun s =>
    ⟨_, exec_pkind_eq s, onlyResultGroup_withGroup .., ?badEnvelope, ?short, ?unknown, ?known⟩⟩
  case badEnvelope =>
    intro h
    obtain ⟨-, -, hkind⟩ := validateEnvelope_of_bad h
    exact hkind
  case short =>
    exact congrArg kindGroup
  case unknown =>
    exact fun k p hp hk => (congrArg kindGroup hp).trans (kindGroup_of_gt hk p)
  case known =>
    exact fun k p hp hk => (congrArg kindGroup hp).trans (kindGroup_of_le hk p)

/-! ## The groups of a decoded response -/

/-- The group that DEC writes for a received sequence, under the command issued (43_interpret.md R158, R163). -/
def decodedGroup (c : Command) (r : List Byte) : ResultGroup := outcomeGroup r (interpret c r)

/-- The group of a shape error behind a kind that parsed: both stages passed, no data. -/
def kindShapeError (kind : Byte) : ResultGroup := ⟨0x12#8, kind, 0#8, true, true, false, true⟩

theorem outcomeGroup_shapeError (kind : Byte) (q : List Byte) :
    outcomeGroup (0xA5#8 :: kind :: q) .shapeError = kindShapeError kind := by
  simp [outcomeGroup, kindShapeError]

theorem interpret_of_gt {k : Byte} (h : 0x03#8 < k) (c : Command) (q : List Byte) :
    interpret c (0xA5#8 :: k :: q) = .decodeError k := by
  simp [interpret, validateEnvelope, parseKind_of_gt h]

theorem interpret_kindCode (c : Command) (k : ResponseKind) (q : List Byte) :
    interpret c (0xA5#8 :: kindCode k :: q) = stage3 c k (0xA5#8 :: kindCode k :: q) := by
  simp [interpret, validateEnvelope, parseKind_kindCode]

theorem decodedGroup_kindCode (c : Command) (k : ResponseKind) (q : List Byte) :
    decodedGroup c (0xA5#8 :: kindCode k :: q) =
      outcomeGroup (0xA5#8 :: kindCode k :: q) (stage3 c k (0xA5#8 :: kindCode k :: q)) :=
  congrArg (outcomeGroup _) (interpret_kindCode c k q)

/-- The length validator passes exactly where index 3 is there to be read (43_interpret.md R150, R154): index 1 of the
payload. -/
theorem statusAnswer_payload (m kind : Byte) (q : List Byte) :
    statusAnswer (m :: kind :: q) = q[1]?.elim .shapeError .statusValue := by
  rcases q with _ | ⟨x, _ | ⟨y, q⟩⟩ <;> simp [statusAnswer, lenOk, minLen, byte3]

section Rows

variable (c : Command) (q : List Byte)

theorem decodedGroup_ok : decodedGroup c (0xA5#8 :: 0x00#8 :: q) =
    if c = .setRelay ∨ c = .toggleRelay ∨ c = .setAll then ⟨0x01#8, 0x00#8, 0#8, true, true, false, false⟩
    else kindShapeError 0x00#8 := by
  refine (decodedGroup_kindCode c .ok q).trans ?_
  cases c
  case ping | getStatus => exact outcomeGroup_shapeError 0x00#8 q
  case setRelay | toggleRelay | setAll => rfl

theorem decodedGroup_err : decodedGroup c (0xA5#8 :: 0x01#8 :: q) =
    if c = .setRelay ∨ c = .toggleRelay then ⟨0x13#8, 0x01#8, (q[1]?).getD 0xFF#8, true, true, true, true⟩
    else kindShapeError 0x01#8 := by
  refine (decodedGroup_kindCode c .err q).trans ?_
  cases c
  case ping | getStatus | setAll => exact outcomeGroup_shapeError 0x01#8 q
  case setRelay | toggleRelay => rfl

theorem decodedGroup_status : decodedGroup c (0xA5#8 :: 0x02#8 :: q) =
    q[1]?.elim (kindShapeError 0x02#8) fun m =>
      if c = .getStatus then ⟨0x02#8, 0x02#8, m, true, true, true, false⟩ else kindShapeError 0x02#8 := by
  have hshape := outcomeGroup_shapeError 0x02#8 q
  refine (decodedGroup_kindCode c .status q).trans ?_
  cases c
  case getStatus =>
    rw [stage3, statusAnswer_payload]
    cases q[1]? with
    | none => exact hshape
    | some m => rfl
  case ping | setRelay | toggleRelay | setAll => cases q[1]? <;> exact hshape

theorem decodedGroup_pong : decodedGroup c (0xA5#8 :: 0x03#8 :: q) =
    if c = .ping then ⟨0x01#8, 0x03#8, 0#8, true, true, false, false⟩ else kindShapeError 0x03#8 := by
  refine (decodedGroup_kindCode c .pong q).trans ?_
  cases c
  case ping => rfl
  case getStatus | setRelay | toggleRelay | setAll => exact outcomeGroup_shapeError 0x03#8 q

end Rows

theorem decodedGroup_of_gt {k : Byte} (h : 0x03#8 < k) (c : Command) (q : List Byte) :
    decodedGroup c (0xA5#8 :: k :: q) = ⟨0x11#8, k, 0#8, true, false, false, true⟩ := by
  rw [decodedGroup, interpret_of_gt h]
  rfl

theorem not_magic_of_badEnvelope {f : List Byte} (h : badEnvelope f = true) : ¬∃ p, f = 0xA5#8 :: p := by
  rintro ⟨p, rfl⟩
  cases h

theorem decodedGroup_of_badEnvelope {f : List Byte} (h : badEnvelope f = true) (c : Command) :
    decodedGroup c f = bareError 0x10#8 := by
  rw [decodedGroup, interpret_of_bad (not_magic_of_badEnvelope h)]
  rfl

/-- The cut at RX_CAP leaves the first byte. -/
theorem badEnvelope_take (f : List Byte) : badEnvelope (f.take 64) = badEnvelope f := by
  cases f <;> rfl

/-! ## The response rows -/

/-- The instruction answers with a result group, having received a frame cut at RX_CAP: RXBUF is as it was at every
index the frame does not reach, and so are the operands, the request frame and the host's side. -/
def EndsWith (s : State) (i : Instr) (frame : List Byte) (g : ResultGroup) : Prop :=
  ∃ t, exec i s = .next t ∧ t.block.rg = g ∧ t.block.rx = frame.take 64 ∧
    (∀ j, min frame.length 64 ≤ j → readByte t.block.rxBuf j = readByte s.block.rxBuf j) ∧
    OperandsKept s.block t.block ∧ FrameKept s.block t.block ∧ HostSideKept s t

/-- After a request with nothing received yet, the delivery of a frame ends as DEC does on the frame cut at RX_CAP. -/
theorem endsWith_of_response {s : State} {c : Command} (htxv : s.block.txv = true) (hcmd : s.block.cmd = cmdCode c)
    (hlen : s.block.rxLen = 0#7) {i : Instr} {frame : List Byte}
    (he : exec i s = completesIf s (responseSequence frame)) {g : ResultGroup}
    (hg : decodedGroup c (frame.take 64) = g) : EndsWith s i frame g := by
  obtain ⟨⟨htxv', htx'⟩, hoperands⟩ := pushBytes_keeps frame s.block
  have hbound : s.block.rxLen.toNat ≤ 64 := by simp [hlen]
  have hrx : (pushBytes frame s.block).rx = frame.take 64 := by
    rw [rx_pushBytes hbound, rx_of_empty hlen, List.nil_append]
  have hend : (pushBytes frame s.block).rxLen.toNat = min frame.length 64 := by
    simp [rxLen_pushBytes hbound, hlen]
  have hdec : responseSequence frame s.block =
      some { pushBytes frame s.block with rg := g } := by
    rw [← hg, responseSequence, interpretOp_request (htxv'.trans htxv)
      ((congrArg parseCmd (hoperands.1.trans hcmd)).trans (parseCmd_cmdCode c)), hrx]
    rfl
  rw [completesIf, hdec] at he
  exact ⟨_, he, rfl, hrx, fun j hj => (receives_pushBytes frame s.block).bytes j (.inr (hend ▸ hj)), hoperands,
    ⟨htxv', htx'⟩, hostSideKept_withBlock ..⟩

/-- Settles O32: each row delivers its frame, and the cut at RX_CAP leaves the byte at index 3. -/
theorem responseRowsOutcome : Obligations.ResponseRowsOutcome := by
  intro s c p htxv hcmd hlen
  have hread : (p.take 62)[1]? = p[1]? := List.getElem?_take_of_lt (by decide)
  have herr := decodedGroup_err c (p.take 62)
  have hstatus := decodedGroup_status c (p.take 62)
  rw [hread] at herr hstatus
  refine ⟨endsWith_of_response htxv hcmd hlen (exec_rspOk s p) (decodedGroup_ok c (p.take 62)),
    endsWith_of_response htxv hcmd hlen (exec_rspErr s p) herr,
    endsWith_of_response htxv hcmd hlen (exec_rspStatus s p) (hstatus.trans ?statusGroup),
    endsWith_of_response htxv hcmd hlen (exec_rspPong s p) (decodedGroup_pong c (p.take 62))⟩
  case statusGroup => cases p[1]? <;> rfl

/-- Settles O33: the cut at RX_CAP leaves the kind byte, and the envelope as bad as it was. -/
theorem catchAllResponsesOutcome : Obligations.CatchAllResponsesOutcome := fun s c htxv hcmd hlen =>
  ⟨fun k p hk => endsWith_of_response htxv hcmd hlen (exec_rspUnknown s k p) (decodedGroup_of_gt hk c (p.take 62)),
    fun f hf => endsWith_of_response htxv hcmd hlen (exec_rspBadmagic s f)
      (decodedGroup_of_badEnvelope ((badEnvelope_take f).trans hf) c)⟩

end Sys2Proof.Machine
end

section
/-! PROOFS. The interpretation (43_interpret.md): the decision table of R162 by kind, what `interpret` reads of a
response (R161), the length validator (R150), DEC as the image of `interpret` (R158), and the messages (R159). -/

namespace Sys2Proof.Machine

/-! ## The table by kind, for a payload of any length -/

section Kinds

variable (c : Command) (q : List Byte)

theorem interpret_ok : interpret c (0xA5#8 :: 0x00#8 :: q) =
    if c = .setRelay ∨ c = .toggleRelay ∨ c = .setAll then .success else .shapeError := by
  refine (interpret_kindCode c .ok q).trans ?_
  cases c <;> rfl

theorem interpret_err : interpret c (0xA5#8 :: 0x01#8 :: q) =
    if c = .setRelay ∨ c = .toggleRelay then .deviceError (q[1]?.getD 0xFF#8) else .shapeError := by
  refine (interpret_kindCode c .err q).trans ?_
  cases c <;> rfl

theorem interpret_status : interpret c (0xA5#8 :: 0x02#8 :: q) =
    if c = .getStatus then q[1]?.elim .shapeError .statusValue else .shapeError := by
  refine (interpret_kindCode c .status q).trans ?_
  cases c
  case getStatus => exact statusAnswer_payload 0xA5#8 0x02#8 q
  case ping | setRelay | toggleRelay | setAll => rfl

theorem interpret_pong : interpret c (0xA5#8 :: 0x03#8 :: q) =
    if c = .ping then .success else .shapeError := by
  refine (interpret_kindCode c .pong q).trans ?_
  cases c <;> rfl

end Kinds

/-- Settles O10: the rows of one kind are its line at the two payload lengths, the byte at index 3 absent or there. -/
theorem interpretDecisionTable : Obligations.InterpretDecisionTable := by
  intro c
  have habsent : ∀ p : List Byte, p.length < 2 → p[1]? = none := fun p hp =>
    List.getElem?_eq_none (Nat.le_of_lt_succ hp)
  refine ⟨rfl, ?badMagic, rfl, fun _ p hk => interpret_of_gt hk c p, interpret_ok c, ?errShort,
    fun x y p => interpret_err c (x :: y :: p), ?statusShort, fun x y p => interpret_status c (x :: y :: p),
    interpret_pong c⟩
  case badMagic =>
    intro m t hm
    exact interpret_of_bad (fun ⟨_, hp⟩ => hm (List.cons.inj hp).1) c
  case errShort =>
    intro p hp
    rw [interpret_err, habsent p hp]
    rfl
  case statusShort =>
    intro p hp
    rw [interpret_status, habsent p hp]
    exact ite_self _

/-! ## What `interpret` reads -/

/-- Where the length validator passes, index 3 is there to be read: the answer is a function of that read alone. -/
theorem statusAnswer_eq (s : List Byte) : statusAnswer s = s[3]?.elim .shapeError .statusValue := by
  by_cases h : 4 ≤ s.length
  · have hlen : lenOk .getStatus .status s.length = true := decide_eq_true h
    have hread : byte3 s = some s[3] := List.getElem?_eq_getElem h
    simp only [statusAnswer, hlen, hread, if_true, List.getElem?_eq_getElem h, Option.elim_some]
  · have hlen : lenOk .getStatus .status s.length = false := decide_eq_false h
    have hread : s[3]? = none := List.getElem?_eq_none (by omega)
    simp only [statusAnswer, hlen, hread, Bool.false_eq_true, if_false, Option.elim_none]

theorem stage3_congr {s t : List Byte} (h3 : s[3]? = t[3]?) (c : Command) (k : ResponseKind) :
    stage3 c k s = stage3 c k t := by
  have hstatus : statusAnswer s = statusAnswer t := by rw [statusAnswer_eq, statusAnswer_eq, h3]
  have herr : errCode s = errCode t := congrArg (·.getD config.errSentinel) h3
  unfold stage3
  rw [hstatus, herr]

/-- The reads at indices 0, 1 and 3, absent bytes among them, decide the outcome. -/
theorem interpret_congr {s t : List Byte} (h0 : s[0]? = t[0]?) (h1 : s[1]? = t[1]?) (h3 : s[3]? = t[3]?)
    (c : Command) : interpret c s = interpret c t := by
  have hv : validateEnvelope s = validateEnvelope t := by unfold validateEnvelope; rw [h0]
  have hk : s[config.kindIndex]? = t[config.kindIndex]? := h1
  simp only [interpret, hv, hk, stage3_congr h3]

/-- Settles O11. That the lengths agree up to 4 is not needed beside the reads, which are absent past the end. -/
theorem otherBytesAreIgnored : Obligations.OtherBytesAreIgnored :=
  ⟨fun c _ _ _ h0 h1 h3 => interpret_congr h0 h1 h3 c, fun c p q =>
    ⟨(interpret_ok c p).trans (interpret_ok c q).symm, (interpret_pong c p).trans (interpret_pong c q).symm⟩⟩

/-! ## The length validator -/

theorem minLen_of_ne {c : Command} {k : ResponseKind} (h : (c, k) ≠ (.getStatus, .status)) : minLen c k = 2 := by
  unfold minLen
  split
  · exact absurd rfl h
  · rfl

theorem lenOk_iff (c : Command) (k : ResponseKind) (n : Nat) : lenOk c k n = true ↔ minLen c k ≤ n :=
  decide_eq_true_iff

/-- The outcome is a success, with a value or without (70_reset_and_hazards.md R223). -/
def Succeeds (o : DecodeOutcome) : Prop := o = .success ∨ ∃ m, o = .statusValue m

/-- A pair whose success asks for no payload byte: the least length is that of a magic and a kind byte. -/
theorem succeeds_iff_lenOk_of_success {c : Command} {k : ResponseKind} {p : List Byte} {o : DecodeOutcome}
    (hne : (c, k) ≠ (.getStatus, .status)) (ho : o = .success) : Succeeds o ↔ lenOk c k (p.length + 2) = true := by
  rw [lenOk_iff, minLen_of_ne hne]
  exact iff_of_true (.inl ho) (Nat.le_add_left 2 _)

/-- Under GetStatus a value is answered exactly where the response has an index 3. -/
theorem succeeds_status_iff_lenOk (p : List Byte) :
    Succeeds (interpret .getStatus (0xA5#8 :: 0x02#8 :: p)) ↔ lenOk .getStatus .status (p.length + 2) = true := by
  rw [lenOk_iff, interpret_status, if_pos rfl]
  rcases p with _ | ⟨x, _ | ⟨y, p⟩⟩ <;> simp [Succeeds, minLen]

/-- Settles O13: four of the pairs succeed at every length, and GetStatus with Status where index 3 is there. -/
theorem lengthValidatorDecides : Obligations.LengthValidatorDecides := by
  refine ⟨rfl, fun _ _ => minLen_of_ne, lenOk_iff, fun c k p hpair => ?_⟩
  simp only [List.mem_cons, List.not_mem_nil, or_false, Prod.mk.injEq] at hpair
  rcases hpair with ⟨rfl, rfl⟩ | ⟨rfl, rfl⟩ | ⟨rfl, rfl⟩ | ⟨rfl, rfl⟩ | ⟨rfl, rfl⟩
  · exact succeeds_iff_lenOk_of_success (by decide) (interpret_pong .ping p)
  · exact succeeds_status_iff_lenOk p
  · exact succeeds_iff_lenOk_of_success (by decide) (interpret_ok .setRelay p)
  · exact succeeds_iff_lenOk_of_success (by decide) (interpret_ok .toggleRelay p)
  · exact succeeds_iff_lenOk_of_success (by decide) (interpret_ok .setAll p)

/-! ## DEC -/

theorem exec_dec_noRequest {s : State} (h : s.block.txv = false) :
    exec .dec s = .next (s.withGroup (bareError 0x21#8)) := by
  rw [exec_dec, completesIf, interpretOp_noRequest h]
  rfl

/-- Settles O28: on both branches the state left is the one before with another result group. -/
theorem decRefinesInterpret : Obligations.DecRefinesInterpret :=
  ⟨decode_encode (i := .dec) rfl,
    fun _ htxv => ⟨_, exec_dec_noRequest htxv, onlyResultGroup_withGroup .., rfl⟩,
    fun _ _ htxv hcmd => ⟨_, exec_dec_request htxv hcmd, onlyResultGroup_withGroup .., rfl⟩⟩

/-! ## The messages -/

section Messages

variable {b : Codec} {c : Command}

theorem report_envelopeError (h : b.rg.result = 0x10#8) : report b = some (.message "invalid magic byte") := by
  simp [report, h, errorCode]

theorem report_decodeError (h : b.rg.result = 0x11#8) :
    report b = some (.messageWithByte "unknown response type" b.rg.kindByte) := by
  simp [report, h, errorCode]

theorem report_shapeError (h : b.rg.result = 0x12#8) (hc : b.cmd = cmdCode c) :
    report b = some (.message (if c = .ping then "invalid ping response"
      else if c = .getStatus then "invalid status response" else "invalid response")) := by
  have hcmd : parseCmd b.cmd = some c := hc ▸ parseCmd_cmdCode c
  cases c <;> simp [report, h, errorCode, hcmd]

theorem report_deviceError (h : b.rg.result = 0x13#8) (hc : b.cmd = cmdCode c)
    (hr : c = .setRelay ∨ c = .toggleRelay) : report b = some (.deviceCode b.rg.data) := by
  have hcmd : parseCmd b.cmd = some c := hc ▸ parseCmd_cmdCode c
  rcases hr with rfl | rfl <;> simp [report, h, errorCode, hcmd]

end Messages

/-- Settles O15: each byte that a clause gives for CMD is the code of its command. -/
theorem messagesFollowTheTable : Obligations.MessagesFollowTheTable := by
  refine fun b => ⟨report_envelopeError, report_decodeError, fun h hc => report_shapeError (c := .ping) h hc,
    fun h hc => report_shapeError (c := .getStatus) h hc, ?shape, ?device⟩
  case shape =>
    rintro h (hc | hc | hc)
    · exact report_shapeError (c := .setRelay) h hc
    · exact report_shapeError (c := .toggleRelay) h hc
    · exact report_shapeError (c := .setAll) h hc
  case device =>
    rintro h (hc | hc)
    · exact report_deviceError (c := .setRelay) h hc (.inl rfl)
    · exact report_deviceError (c := .toggleRelay) h hc (.inr rfl)

end Sys2Proof.Machine
end

section
/-! PROOFS. Control (44_control.md): the host interface and what it refuses (R184), the stops that remain, CLR (R180),
the reserved OP codes (R181), RD by the register map (R182) and the ignored writes (R183). -/

namespace Sys2Proof.Machine

/-! ## The rows of the opcode table -/

/-- Bytes are the encoding of the instruction they decode to, and of no other. -/
theorem wf_and_encode_iff_decode {f : Format} {bytes : List Byte} {i : Instr} :
    (i.wf = true ∧ encode i = (f, bytes)) ↔ decode f bytes = .ok i := by
  constructor
  · rintro ⟨hwf, henc⟩
    have hdecode := decode_encode hwf
    rwa [henc] at hdecode
  · intro h
    exact (encodeOfDecodeIsTheBytes f bytes i h).symm

/-- Four bytes that are none of the five request frames. -/
theorem decodeRequest_of_not_frame {m cmd a b : Byte} (h : ¬(m = 0xA5#8 ∧ ∃ c, cmd = cmdCode c)) :
    decodeRequest m cmd a b = .error .notARequestFrame := by
  unfold decodeRequest
  split_ifs with hm hping hget hset htoggle hall
  · exact absurd ⟨hm, .ping, hping⟩ h
  · exact absurd ⟨hm, .getStatus, hget⟩ h
  · exact absurd ⟨hm, .setRelay, hset⟩ h
  · exact absurd ⟨hm, .toggleRelay, htoggle⟩ h
  · exact absurd ⟨hm, .setAll, hall⟩ h
  · rfl
  · rfl

theorem decode_req_of_not_frame {bytes : List Byte} (h : ¬∃ c a1 a2, bytes = [0xA5#8, cmdCode c, a1, a2]) :
    decode .req bytes = .error .notARequestFrame := by
  rcases bytes with _ | ⟨m, _ | ⟨cmd, _ | ⟨a, _ | ⟨b, _ | ⟨x, more⟩⟩⟩⟩⟩
  case cons.cons.cons.cons.nil =>
    refine decodeRequest_of_not_frame ?_
    rintro ⟨rfl, c, rfl⟩
    exact h ⟨c, a, b, rfl⟩
  all_goals rfl

/-- The offsets whose write is ignored, by their bound. -/
theorem ignoredOffset_of_le {off : Byte} (h : 0x05#8 ≤ off) : ignoredOffset off = true := by
  have hoff : 0x04#8 < off := by bv_omega
  simpa [ignoredOffset, BitVec.ult_iff_lt] using hoff

/-! ## Steps that run and steps that stop -/

theorem exec_next_pending {i : Instr} {s t : State} (h : exec i s = .next t) : t.pending = s.pending := by
  rcases exec_next_cases h with ⟨off, -, rfl⟩ | ⟨d, rfl, -⟩
  · rfl
  · rfl

/-- Under the invariants every instruction has a next state: none is refused, and there is no fault. -/
theorem BlockInv.exec_next {s : State} (h : BlockInv s.block) (i : Instr) : ∃ t, exec i s = .next t := by
  cases he : exec i s with
  | next t => exact ⟨t, rfl⟩
  | fault r => cases r
  | refused r => exact absurd he (h.exec_ne_refused i r)

theorem step_of_takeAccess_stop {s : State} {a : Access} {rest : List Access} {r : Refusal}
    (hp : s.pending = a :: rest) (ha : takeAccess a = .stop r) : step s = .refused r := by
  simp only [step, fetch, hp, ha]

/-- An access of the host that decodes to nothing is taken as the rejection says. -/
theorem takeAccess_of_reject {f : Format} {bytes : List Byte} {r : Reject} (h : decode f bytes = .error r) :
    takeAccess ⟨.theHost, f, bytes⟩ = ofReject r := by
  simp only [takeAccess, h]

/-- Settles O5: a write or a read is the encoding of the one instruction it decodes to, and that instruction runs; a
second host is stopped before its bytes are decoded, a wide access by the decoder. -/
theorem hostInterfaceIsComplete : Obligations.HostInterfaceIsComplete := by
  refine ⟨fun off v => ?oneWrite, fun off i => ?oneRead, fun s off v rest hinv hp => ?writeRuns,
    fun s off rest hp => ?readRuns, fun s f bytes rest hp => step_of_takeAccess_stop hp rfl,
    fun s x y z more rest hp => step_of_takeAccess_stop hp rfl,
    fun s x y more rest hp => step_of_takeAccess_stop hp rfl⟩
  case oneWrite =>
    exact ⟨decodeWrite off v, wf_and_encode_iff_decode.2 rfl,
      fun i hi => (Except.ok.inj (wf_and_encode_iff_decode.1 hi)).symm⟩
  case oneRead =>
    exact wf_and_encode_iff_decode.trans ⟨fun h => (Except.ok.inj h).symm, fun h => congrArg Except.ok h.symm⟩
  case writeRuns =>
    have hstep := stepRunsTheDecodedInstruction s _ _ rest (decodeWrite off v) hp rfl
    obtain ⟨t, ht⟩ := BlockInv.exec_next (s := { s with pending := rest }) hinv (decodeWrite off v)
    exact ⟨t, hstep.trans ht, exec_next_pending ht⟩
  case readRuns => exact stepRunsTheDecodedInstruction s _ _ rest (.rd off) hp rfl

/-- Settles O6: the decoder rejects a cut off access and a malformed request by name, and DEC without a command
computes no block. -/
theorem stopsAreNamed : Obligations.StopsAreNamed := by
  refine ⟨fun s rest hp => ?cutOff, fun s bytes rest hp hframe => ?noFrame, fun s htxv hcmd => ?noCommand⟩
  case cutOff =>
    rcases hp with hp | hp | ⟨off, hp⟩
    · exact step_of_takeAccess_stop hp rfl
    · exact step_of_takeAccess_stop hp rfl
    · exact step_of_takeAccess_stop hp rfl
  case noFrame => exact step_of_takeAccess_stop hp (takeAccess_of_reject (decode_req_of_not_frame hframe))
  case noCommand => simp only [exec_dec, completesIf, interpretOp_noCommand htxv hcmd]

/-! ## CLR, the reserved OP codes and the ignored writes -/

theorem clearAll_eq (b : Codec) : clearAll b = { Codec.reset with rxBuf := b.rxBuf } := rfl

/-- Settles O35. -/
theorem clrRestoresReset : Obligations.ClrRestoresReset :=
  ⟨decode_encode (i := .clr) rfl, fun s => ⟨_, exec_clr s, clearAll_eq s.block, hostSideKept_withBlock ..⟩⟩

theorem exec_oprsv_eq (d : Byte) (s : State) : exec (.oprsv d) s = .next (s.withGroup (bareError 0x22#8)) := by
  rw [exec_oprsv, completes_eq, badOp_eq]
  rfl

/-- Settles O37. -/
theorem reservedOpIsRefused : Obligations.ReservedOpIsRefused := fun d hd =>
  ⟨decode_encode (i := .oprsv d) hd, fun s => ⟨_, exec_oprsv_eq d s, onlyResultGroup_withGroup .., rfl⟩⟩

/-- Settles O39. -/
theorem ignoredWritesChangeNothing : Obligations.IgnoredWritesChangeNothing := fun off v s hoff =>
  ⟨decode_encode (i := .wrign off v) (ignoredOffset_of_le hoff), exec_wrign s off v⟩

/-! ## The register map -/

theorem getLsbD_flagBit {k : Nat} (hk : k < 8) (f : Bool) (i : Nat) :
    (flagBit f k).getLsbD i = (f && decide (i = k)) := by
  cases f with
  | false => simp [flagBit]
  | true =>
    calc (BitVec.twoPow 8 k).getLsbD i = (decide (k < 8) && decide (k = i)) := BitVec.getLsbD_twoPow ..
      _ = (true && decide (i = k)) := by simp [hk, eq_comm]

/-- STATUS bit by bit: the five flags at 0 to 4, and zero above. -/
theorem getLsbD_statusByte (b : Codec) (i : Nat) : (statusByte b).getLsbD i =
    ([b.txv, b.rg.envOk, b.rg.kindOk, b.rg.dataV, b.rg.fail].getD i false) := by
  simp only [statusByte, BitVec.getLsbD_or, getLsbD_flagBit, Nat.reduceLT]
  rcases i with _ | _ | _ | _ | _ | i <;> simp

/-- The offsets that the register map gives a byte of the block; every other one reads as zero. -/
def mappedOffsets : List Byte :=
  [offCmd, offArg1, offArg2, offRxlen, offStatus, offResult, offKindbyte, offData, offTx0, offTx1, offTx2, offTx3]

theorem hostRead_of_not_mapped {off : Byte} (h : off ∉ mappedOffsets) (b : Codec) : hostRead b off = 0x00#8 := by
  simp only [mappedOffsets, List.mem_cons, List.not_mem_nil, or_false, not_or] at h
  simp [hostRead, h]

theorem lt_of_mapped : ∀ off ∈ mappedOffsets, off < 0x10#8 := by decide

theorem not_mapped {off : Byte} (h : off = 0x00#8 ∨ off = 0x04#8 ∨ off = 0x0A#8 ∨ off = 0x0B#8 ∨ 0x10#8 ≤ off) :
    off ∉ mappedOffsets := by
  rcases h with rfl | rfl | rfl | rfl | h
  case inr.inr.inr.inr => exact fun hmem => absurd (lt_of_mapped off hmem) (BitVec.not_lt.2 h)
  all_goals decide

/-- Settles O38: the byte returned is the register map's, offset by offset. -/
theorem rdReturnsTheRegister : Obligations.RdReturnsTheRegister := by
  refine fun s off => ⟨decode_encode (i := .rd off) rfl, hostRead s.block off, exec_rd s off, ?_⟩
  refine ⟨?cmd, ?arg1, ?arg2, ?rxlen, ?status, ?result, ?kindbyte, ?data, ?tx0, ?tx1, ?tx2, ?tx3,
    fun hoff => hostRead_of_not_mapped (not_mapped hoff) s.block⟩
  case rxlen =>
    rintro rfl
    rw [hostRead_rxlen, BitVec.toNat_setWidth_of_le (by decide)]
  case status =>
    rintro rfl
    exact getLsbD_statusByte s.block
  all_goals
    rintro rfl
    rfl

end Sys2Proof.Machine
end

section
/-! PROOFS. Exceptions (60_exceptions.md): what raising an error records and leaves (R200), and that no outcome of a
request stands without one (R197, property 14). -/

namespace Sys2Proof.Machine

/-! ## Raising an error -/

/-- Settles O16. -/
theorem raiseRecordsTheError : Obligations.RaiseRecordsTheError := fun e b =>
  ⟨⟨raise_cmd .., raise_arg1 .., raise_arg2 ..⟩, ⟨raise_txv .., raise_tx ..⟩,
    receiveKept_of_same (raise_rxLen ..) (raise_rxBuf ..), raise_fail .., raise_kindByte .., raise_data ..,
    raise_envOk .., raise_kindOk .., raise_dataV .., (raise_result ..).trans (by cases e <;> rfl)⟩

/-! ## Outcomes of a request -/

/-- An instruction that answers leaves a fresh group, or the block it found. -/
theorem exec_next_fresh_or_same {i : Instr} {s t : State} (h : exec i s = .next t) :
    FreshGroup t.block ∨ t.block = s.block := by
  rcases exec_forms i with ⟨off, rfl⟩ | ⟨f, hf, he⟩ | ⟨f, -, he⟩
  · rw [exec_rd] at h
    cases h
    exact .inr rfl
  · rw [he] at h
    rw [completes_next h]
    exact hf.fresh_or_same s.block
  · rw [he] at h
    obtain ⟨d, hd, rfl⟩ := completesIf_next h
    exact .inl (freshGroup_interpretOp hd)

/-- A fresh SUCCESS, STATUS_VALUE or E_DEVICE stands beside a request: invariant I9. -/
theorem FreshGroup.txv_of_outcome {b : Codec} (h : FreshGroup b) (hr : b.rg.result ∈ [0x01#8, 0x02#8, 0x13#8]) :
    b.txv = true := by
  simp only [List.mem_cons, List.not_mem_nil, or_false] at hr
  exact h.groupInv.needsRequest (hr.imp_right (·.imp_right .inl))

/-- Settles O50: a fresh group with one of these outcomes needs TXV = 1, so with TXV = 0 nothing has changed. -/
theorem noOutcomeWithoutRequest : Obligations.NoOutcomeWithoutRequest := by
  intro i s t h htxv hr
  rcases exec_next_fresh_or_same h with hfresh | hsame
  · exact absurd (hfresh.txv_of_outcome hr) (by simp [htxv])
  · rw [hsame]

end Sys2Proof.Machine
end

section
/-! PROOFS. Reset and hazards (70_reset_and_hazards.md): CLR against reset (R221), the first operations (R222), the
steps that run no row (R220, R143), bytes cut off and late bytes (R225 to R227), the exchange (R223, R233), and DEC
after an operand write (R224). -/

namespace Sys2Proof.Machine

/-! ## Bytes that decide nothing -/

/-- The table of R163 reads of the sequence only its byte at index 1, absent or there. -/
theorem outcomeGroup_congr {s t : List Byte} (h1 : s[1]? = t[1]?) (o : DecodeOutcome) :
    outcomeGroup s o = outcomeGroup t o := by
  have hkind : s.getD 1 0#8 = t.getD 1 0#8 := by rw [List.getD_eq_getElem?_getD, h1, ← List.getD_eq_getElem?_getD]
  have hshort : s.length < 2 ↔ t.length < 2 := by
    rw [Nat.lt_succ_iff, Nat.lt_succ_iff, ← List.getElem?_eq_none_iff, h1, List.getElem?_eq_none_iff]
  cases o with
  | success => simp only [outcomeGroup, hkind]
  | shapeError => simp only [outcomeGroup, hkind, hshort]
  | statusValue | envelopeError | decodeError | deviceError => rfl

section CutOff

variable (c : Command) (s : List Byte) {n : Nat}

theorem interpret_take (h : 4 ≤ n) : interpret c (s.take n) = interpret c s :=
  interpret_congr (List.getElem?_take_of_lt (by omega)) (List.getElem?_take_of_lt (by omega))
    (List.getElem?_take_of_lt (by omega)) c

theorem decodedGroup_take (h : 4 ≤ n) : decodedGroup c (s.take n) = decodedGroup c s := by
  rw [decodedGroup, interpret_take c s h]
  exact outcomeGroup_congr (List.getElem?_take_of_lt (by omega)) _

/-- Both sequences begin with the same four bytes. -/
theorem decodedGroup_append (h : 4 ≤ s.length) (bytes : List Byte) :
    decodedGroup c (s ++ bytes) = decodedGroup c s := by
  rw [← decodedGroup_take c (s ++ bytes) le_rfl, List.take_append_of_le_length h, decodedGroup_take c s le_rfl]

end CutOff

/-- Settles O12: the cut leaves the bytes at indices 0, 1 and 3. -/
theorem cutOffBytesAreIrrelevant : Obligations.CutOffBytesAreIrrelevant :=
  fun c s _ h => interpret_take c s h

/-! ## Late bytes -/

theorem completesIf_of_some {s : State} {d : Codec} {f : Codec → Option Codec} (h : f s.block = some d) :
    completesIf s f = .next (s.withBlock d) := by
  simp only [completesIf, h]

section Deliveries

variable {b : Codec} (bytes : List Byte)

theorem responseSequence_noRequest (htxv : b.txv = false) :
    responseSequence bytes b = some { pushBytes bytes b with rg := bareError 0x21#8 } := by
  obtain ⟨⟨hkept, -⟩, -⟩ := pushBytes_keeps bytes b
  exact interpretOp_noRequest (hkept.trans htxv)

/-- With a request, a delivery decodes what was received before it and the bytes behind that; the cut at RX_CAP takes
nothing that decides. -/
theorem responseSequence_request {c : Command} (htxv : b.txv = true) (hc : parseCmd b.cmd = some c)
    (hcap : b.rxLen.toNat ≤ 64) :
    responseSequence bytes b = some { pushBytes bytes b with rg := decodedGroup c (b.rx ++ bytes) } := by
  obtain ⟨⟨hkept, -⟩, hcmd, -⟩ := pushBytes_keeps bytes b
  rw [← decodedGroup_take c (b.rx ++ bytes) (n := 64) (by decide), ← rx_pushBytes hcap]
  exact interpretOp_request (hkept.trans htxv) ((congrArg parseCmd hcmd).trans hc)

end Deliveries

/-- Settles O31: with no request the late DEC is refused as the first was; with one, the bytes that decide are received
already. -/
theorem lateBytesKeepTheOutcome : Obligations.LateBytesKeepTheOutcome := by
  intro s t bytes hfour hcap h
  rw [exec_dec] at h
  obtain ⟨d, hd, rfl⟩ := completesIf_next h
  rw [execAll_pseudoRx_dec]
  rcases interpretOp_cases hd with ⟨htxv, rfl⟩ | ⟨htxv, c, hc, rfl⟩
  · exact ⟨_, completesIf_of_some (responseSequence_noRequest bytes htxv), rfl⟩
  · exact ⟨_, completesIf_of_some (responseSequence_request bytes htxv hc hcap),
      decodedGroup_append c s.block.rx (by rwa [length_rx]) bytes⟩

/-! ## CLR against reset -/

/-- CLR leaves the reset block but for bytes of RXBUF, none of which is received. -/
theorem sameView_clearAll_reset (b : Codec) : SameView (clearAll b) Codec.reset :=
  sameView_iff.2 ⟨[], rfl, nofun⟩

/-- Operations run in two states that differ in stale bytes alone have one outcome to the host. -/
theorem sameOutcome_execAll (is : List Instr) {s s' : State} (h : SameToTheHost s s') :
    SameOutcome (execAll is s) (execAll is s') := by
  induction is generalizing s s' with
  | nil => exact .next h
  | cons i is ih =>
    have hout := sameOutcome_exec h i
    generalize hx : exec i s = x, hy : exec i s' = y at hout
    cases hout with
    | next hsame =>
      rw [execAll_cons_of_next hx, execAll_cons_of_next hy]
      exact ih hsame
    | refused r =>
      rw [execAll_cons_of_refused hx, execAll_cons_of_refused hy]
      exact .refused r

/-- Settles O36: the block after CLR and the reset block have one view, which every further operation keeps. -/
theorem clrIsObservablyReset : Obligations.ClrIsObservablyReset := by
  intro s t is h
  rw [exec_clr] at h
  obtain rfl := completes_next h
  have hview := sameView_clearAll_reset s.block
  refine ⟨hview.hostRead_eq, fun u hu => ?_⟩
  have hout := sameOutcome_execAll is (s := s.withBlock (clearAll s.block)) (s' := s.withBlock Codec.reset)
    ⟨hview, rfl, rfl⟩
  rw [hu] at hout
  generalize hw : execAll is (s.withBlock Codec.reset) = x at hout
  cases hout with
  | next hsame =>
    obtain ⟨hblock, -, hread⟩ := hsame
    exact ⟨_, hw, hread.symm, fun off => (hblock.hostRead_eq off).symm⟩

/-! ## The exchange -/

/-- REQ leaves a valid request of its command, with nothing received. -/
theorem pseudoReq_next (s : State) (c : Command) (a1 a2 : Byte) :
    ∃ t, execAll (pseudoReq (cmdCode c) a1 a2) s = .next t ∧ t.block.txv = true ∧
      t.block.tx = ⟨0xA5#8, cmdCode c, a1, a2⟩ ∧ t.block.cmd = cmdCode c ∧ t.block.rxLen = 0#7 := by
  refine ⟨_, execAll_pseudoReq c a1 a2 s, ?_⟩
  rw [withBlock_block, requestSequence_eq]
  exact ⟨rfl, rfl, rfl, rfl⟩

/-- Settles O45: the delivery of the response keeps the frame that REQ left, and decodes what RX_CAP leaves of the
bytes, which decides as the whole does. -/
theorem exchangeInterpretsTheResponse : Obligations.ExchangeInterpretsTheResponse := by
  intro s c a1 a2 bytes
  obtain ⟨t, hreq, htxv, htx, hcmd, hlen⟩ := pseudoReq_next s c a1 a2
  obtain ⟨u, hu, hrg, hrx, -, -, ⟨htxv', htx'⟩, -⟩ :=
    endsWith_of_response htxv hcmd hlen (exec_rspBadmagic t bytes) (decodedGroup_take c bytes (by decide))
  refine ⟨u, ?_, htxv'.trans htxv, htx'.trans htx, hrx, hrg⟩
  rw [pseudoXchg, List.append_assoc, execAll_append_of_next hreq, execAll_pseudoRx_dec]
  exact hu

/-- A result group that ends an exchange (70_reset_and_hazards.md R233): one of the seven outcomes, and a success
exactly where FAIL is 0. -/
def EndsExchange (g : ResultGroup) : Prop :=
  g.result ∈ [0x01#8, 0x02#8, 0x10#8, 0x11#8, 0x12#8, 0x13#8, 0x21#8] ∧
    (g.result == passCode .success || g.result == passCode .statusValue) = !g.fail

theorem endsExchange_noRequest : EndsExchange (bareError 0x21#8) := ⟨by decide, rfl⟩

theorem endsExchange_outcomeGroup (s : List Byte) (o : DecodeOutcome) : EndsExchange (outcomeGroup s o) := by
  cases o with
  | success | statusValue | envelopeError | decodeError | deviceError =>
    exact ⟨by simp [outcomeGroup, bareError], rfl⟩
  | shapeError =>
    rw [outcomeGroup]
    split <;> exact ⟨by simp, rfl⟩

/-- Settles O46: DEC answers with the refusal R_NOREQ or with the group of an outcome. -/
theorem exchangeEndsInAnOutcome : Obligations.ExchangeEndsInAnOutcome := by
  intro s t h
  rw [exec_dec] at h
  obtain ⟨d, hd, rfl⟩ := completesIf_next h
  rcases interpretOp_cases hd with ⟨-, rfl⟩ | ⟨-, c, -, rfl⟩
  · exact endsExchange_noRequest
  · exact endsExchange_outcomeGroup _ _

/-! ## After an operand write -/

/-- Operations that answer next begin with one that does. -/
theorem execAll_cons_next {i : Instr} {is : List Instr} {s t : State} (h : execAll (i :: is) s = .next t) :
    ∃ u, exec i s = .next u ∧ execAll is u = .next t := by
  cases hi : exec i s with
  | next u => exact ⟨u, rfl, (execAll_cons_of_next hi is).symm.trans h⟩
  | fault r => cases r
  | refused r => cases (execAll_cons_of_refused hi is).symm.trans h

/-- With no request encoded, and none by the operations that run, DEC at their end is refused: nothing else sets
TXV. -/
theorem dec_refused_of_noRequest {is : List Instr} (his : ∀ i ∈ is, encodesRequest i = false) {s t : State}
    (hs : s.block.txv = false) (h : execAll (is ++ [.dec]) s = .next t) : t.block.rg = bareError 0x21#8 := by
  induction is generalizing s with
  | nil =>
    rw [List.nil_append, execAll_singleton, exec_dec_noRequest hs] at h
    cases h
    rfl
  | cons i is ih =>
    obtain ⟨hi, his⟩ := List.forall_mem_cons.1 his
    obtain ⟨u, hu, ht⟩ := execAll_cons_next h
    obtain ⟨-, hsets⟩ := onlyTheEncoderTouchesTheFrame i s u hu
    refine ih his (Bool.eq_false_iff.2 fun htxv => ?_) ht
    rcases hsets htxv with hs' | hi'
    · exact absurd (hs.symm.trans hs') Bool.false_ne_true
    · exact absurd (hi.symm.trans hi') Bool.false_ne_true

theorem txv_of_operandWrite {w : Instr} {v : Byte} (hw : w ∈ [Instr.setcmd v, .seta1 v, .seta2 v]) {s t : State}
    (h : exec w s = .next t) : t.block.txv = false := by
  simp only [List.mem_cons, List.not_mem_nil, or_false] at hw
  rcases hw with rfl | rfl | rfl <;> cases h <;> rfl

/-- Settles O47: the operand write drops the request, and nothing that follows brings one back. -/
theorem operandWriteForbidsDecode : Obligations.OperandWriteForbidsDecode := by
  intro w v is s t hw his h
  obtain ⟨u, hu, ht⟩ := execAll_cons_next h
  exact dec_refused_of_noRequest his (txv_of_operandWrite hw hu) ht

/-! ## Straight after reset, and the steps that run no row -/

/-- Settles O41. -/
theorem firstOperationsAfterReset : Obligations.FirstOperationsAfterReset := by
  have henc := encodeFrame_refused (b := Codec.reset) rfl
  refine ⟨⟨_, exec_enc _, congrArg Codec.rg henc, congrArg Codec.txv henc⟩, ⟨_, exec_dec_noRequest rfl, rfl⟩,
    ⟨_, exec_venv_eq _, rfl⟩, ⟨_, exec_pkind_eq _, rfl⟩, fun v => ?rxb⟩
  case rxb =>
    exact ⟨_, _, exec_rxb _ v, rx_pushByte_of_lt (b := Codec.reset) (by decide) v, exec_enc _,
      rx_of_empty (encodeFrame_rxLen _)⟩

/-- Settles O43: the short response runs as the delivery of its one byte does. -/
theorem idleAndShortResponseSteps : Obligations.IdleAndShortResponseSteps := by
  refine ⟨fun s hp => ?idle, fun s c rest hp htxv hcmd hlen => ?short⟩
  case idle => simp only [step, fetch, hp]
  case short =>
    have hstep : step s = exec (.rspBadmagic [0xA5#8]) (issued s) := by
      have hfetch : fetch s = .short := by rw [fetch, hp]; rfl
      simp only [step, hfetch, deliverShort_eq]
    obtain ⟨t, ht, hrg, hrx, -, -, -, hpending, -⟩ :=
      endsWith_of_response (s := issued s) htxv hcmd hlen (exec_rspBadmagic (issued s) [0xA5#8]) rfl
    exact ⟨t, hstep.trans ht, hpending.trans (by rw [issued_pending, hp, List.tail_cons]), hrx, hrg⟩

end Sys2Proof.Machine
end
